-- ==== Sys2Proof/Word.lean ====
section
/-! DEFINITION. The word types of the ARM600 (spec/00_scope.md R7 to R9). -/

namespace Sys2Proof

/-- A 32-bit word: a register, an address, a bus word, an instruction. -/
abbrev Word := BitVec 32

/-- A byte, one 8-bit lane of a bus word. -/
abbrev Byte := BitVec 8

/-- A 4-bit register field of an instruction; it names R0 to R15 by its binary value (R246). -/
abbrev RegNum := BitVec 4

end Sys2Proof
end

