-- ==== Sys2Proof/Config.lean ====
section
/-! DEFINITION. What an implementation fixes, and the free values: the `UNSPEC` draws of spec/00_scope.md R10
and the open parameters of spec/92_eei_decisions.md. -/

namespace Sys2Proof

/-- In which operand position an instruction reads a register (R590 draws a value for each position). -/
inductive Role where
  | rn | rm | rs | rd | base | listed
  deriving DecidableEq, Repr

/-- The places where the spec leaves a value or a choice open; each is a free value of the model (log entry 14). -/
inductive Draw where
  /-- Reserved PSR bits 27:8 and 5 as MRS reads them (R53, R351). -/
  | reservedPsr
  /-- The "meaningless" C flag of MULS and MLAS (R374). -/
  | mulCarry
  /-- The "meaningless result" of MLA with Rd = Rm (R373). -/
  | mlaResult
  /-- N and Z after MLAS with Rd = Rm (R372; spec/93_implementation_defined.md row 2). -/
  | mlaFlags
  /-- Bits 31:12 of the FSR as read (R490). -/
  | fsrUpper
  /-- The word an MRC of an invalid coprocessor 15 register yields (R486). -/
  | cp15Invalid
  /-- The x bits of the FSR status and an x domain (R200, R203). -/
  | fsrUndefined
  /-- A banked register read by the instruction after a user-bank LDM (R590). -/
  | bankedRead (role : Role) (r : RegNum)
  /-- Whether an externally aborted unbuffered write changed memory (R202). -/
  | abortedWrite
  /-- Whether the write that a reset cuts off changed memory (R571). -/
  | cutWrite
  /-- Whether a write made with the MMU off updates a line of the disabled cache (R112). -/
  | flatUpdate
  /-- The pseudo-random victim of a linefetch (R72, R131). -/
  | idcVictim
  /-- Which of several TLB entries that cover one address is used (R175). -/
  | tlbChoice
  /-- How many buffered writes reach memory before this step (R141). -/
  | drainCount
  /-- Whether the `k`-th prefetched word is the old one or is fetched again (bit 0), and after an MMU switch under which
  setting (bit 1) (R75). -/
  | refetch (k : Nat)
  /-- A word a coprocessor supplies beyond those its answer lists (R460). -/
  | coprocWord (k : Nat)
  /-- How many buffered writes reached memory before a reset (R141, R571). -/
  | resetDrain
  /-- Whether the `k`-th of them changed memory where it is externally aborted (R571; log entry 31). -/
  | resetAbort (k : Nat)
  /-- The `k`-th word of state that a reset leaves unspecified (R80, R572). -/
  | resetWord (k : Nat)
  deriving DecidableEq, Repr

namespace Config

/-- A free value: nothing constrains it. It is applied to the place that draws and to the counter `draws` of the
state, so that two draws are never forced to agree (log entry 14). -/
opaque free : Draw → Nat → Word

/-- `PTE_CB_ORDER` (R171): whether a level two descriptor has C at bit 2 and B at bit 3, as printed, or the
other way round, as in a section descriptor. Open (log entry 7). -/
opaque pteCbAsPrinted : Bool

/-- `LDC_EXTRA_ABORT` (R468): whether an abort on the extra word that LDC reads is taken. Open (log entry 8). -/
opaque ldcExtraAbort : Bool

/-- Coprocessor 15 register 0, "the ARM Ltd code for this chip" (R55). -/
def idValue : Word := 0x41560601#32

end Config
end Sys2Proof
end

