-- ==== Sys2Proof/Syntax.lean ====
section
/-! DEFINITION. The instructions of the ARM600: one constructor per row of spec/opcode_table.json, its operands the
fields of the row's format (spec/30_encoding.md R223 to R236). -/

namespace Sys2Proof

/-- The condition field, bits 31:28 (R281). -/
inductive Cond where
  | eq | ne | cs | cc | mi | pl | vs | vc | hi | ls | ge | lt | gt | le | al | nv
  deriving DecidableEq, Repr

/-- The shift types, coded 00, 01, 10, 11 (R224). -/
inductive ShiftType where
  | lsl | lsr | asr | ror
  deriving DecidableEq, Repr

/-- The sixteen data-processing operations in the order of their OpCode (R300). -/
inductive AluOp where
  | and | eor | sub | rsb | add | adc | sbc | rsc | tst | teq | cmp | cmn | orr | mov | bic | mvn
  deriving DecidableEq, Repr

/-- Data processing with a rotated immediate (R223, R225). -/
structure DpImm where
  cond : Cond
  s : Bool
  rn : RegNum
  rd : RegNum
  rotate : BitVec 4
  imm : Byte
  deriving DecidableEq, Repr

/-- Data processing with a register shifted by an amount in the instruction (R224). -/
structure DpShift where
  cond : Cond
  s : Bool
  rn : RegNum
  rd : RegNum
  amount : BitVec 5
  type : ShiftType
  rm : RegNum
  deriving DecidableEq, Repr

/-- Data processing with a register shifted by the bottom byte of `rs` (R224). -/
structure DpRegShift where
  cond : Cond
  s : Bool
  rn : RegNum
  rd : RegNum
  rs : RegNum
  type : ShiftType
  rm : RegNum
  deriving DecidableEq, Repr

/-- TST, TEQ, CMP, CMN with an immediate; their S bit is always set (R328). -/
structure TestImm where
  cond : Cond
  rn : RegNum
  rd : RegNum
  rotate : BitVec 4
  imm : Byte
  deriving DecidableEq, Repr

/-- TST, TEQ, CMP, CMN with a shift amount in the instruction. -/
structure TestShift where
  cond : Cond
  rn : RegNum
  rd : RegNum
  amount : BitVec 5
  type : ShiftType
  rm : RegNum
  deriving DecidableEq, Repr

/-- TST, TEQ, CMP, CMN with a shift amount in a register. -/
structure TestRegShift where
  cond : Cond
  rn : RegNum
  rd : RegNum
  rs : RegNum
  type : ShiftType
  rm : RegNum
  deriving DecidableEq, Repr

/-- MRS (R226); `spsr` is the Ps bit. -/
structure MrsArgs where
  cond : Cond
  spsr : Bool
  rd : RegNum
  deriving DecidableEq, Repr

/-- MSR from a register, whole PSR or flag bits only (R226); `spsr` is the Pd bit. -/
structure MsrRegArgs where
  cond : Cond
  spsr : Bool
  rm : RegNum
  deriving DecidableEq, Repr

/-- MSR to the flag bits from an immediate (R226). -/
structure MsrImmArgs where
  cond : Cond
  spsr : Bool
  rotate : BitVec 4
  imm : Byte
  deriving DecidableEq, Repr

/-- MUL and MLA (R227). -/
structure MulArgs where
  cond : Cond
  s : Bool
  rd : RegNum
  rn : RegNum
  rs : RegNum
  rm : RegNum
  deriving DecidableEq, Repr

/-- SWP and SWPB (R228). -/
structure SwpArgs where
  cond : Cond
  rn : RegNum
  rd : RegNum
  rm : RegNum
  deriving DecidableEq, Repr

/-- Single data transfer with an immediate offset (R229). -/
structure SdtImm where
  cond : Cond
  p : Bool
  u : Bool
  w : Bool
  rn : RegNum
  rd : RegNum
  offset : BitVec 12
  deriving DecidableEq, Repr

/-- Single data transfer with a shifted register offset (R229). -/
structure SdtReg where
  cond : Cond
  p : Bool
  u : Bool
  w : Bool
  rn : RegNum
  rd : RegNum
  amount : BitVec 5
  type : ShiftType
  rm : RegNum
  deriving DecidableEq, Repr

/-- The undefined instruction (R230): bits 24:5 and 3:0 are free. -/
structure UndefArgs where
  cond : Cond
  high : BitVec 20
  low : BitVec 4
  deriving DecidableEq, Repr

/-- Block data transfer (R231); bit `i` of `list` lists `R i`. -/
structure Bdt where
  cond : Cond
  p : Bool
  u : Bool
  s : Bool
  w : Bool
  rn : RegNum
  list : BitVec 16
  deriving DecidableEq, Repr

/-- Branch and branch with link (R232). -/
structure BranchArgs where
  cond : Cond
  offset : BitVec 24
  deriving DecidableEq, Repr

/-- Coprocessor data transfer (R233). -/
structure Cdt where
  cond : Cond
  p : Bool
  u : Bool
  n : Bool
  w : Bool
  rn : RegNum
  crd : BitVec 4
  cp : BitVec 4
  offset : Byte
  deriving DecidableEq, Repr

/-- Coprocessor data operation (R234). -/
structure Cdo where
  cond : Cond
  opc : BitVec 4
  crn : BitVec 4
  crd : BitVec 4
  cp : BitVec 4
  info : BitVec 3
  crm : BitVec 4
  deriving DecidableEq, Repr

/-- Coprocessor register transfer (R235). -/
structure Crt where
  cond : Cond
  opc : BitVec 3
  crn : BitVec 4
  rd : RegNum
  cp : BitVec 4
  info : BitVec 3
  crm : BitVec 4
  deriving DecidableEq, Repr

/-- Software interrupt (R236). -/
structure SwiArgs where
  cond : Cond
  comment : BitVec 24
  deriving DecidableEq, Repr

/-- A register transfer with coprocessor 15 whose register number the row fixes (R235, R481). -/
structure Cp15Args where
  cond : Cond
  opc : BitVec 3
  rd : RegNum
  info : BitVec 3
  crm : BitVec 4
  deriving DecidableEq, Repr

/-- The instructions, in the order of spec/opcode_table.json. -/
inductive Instr where
  | andImm (a : DpImm)
  | andShift (a : DpShift)
  | andRegShift (a : DpRegShift)
  | eorImm (a : DpImm)
  | eorShift (a : DpShift)
  | eorRegShift (a : DpRegShift)
  | subImm (a : DpImm)
  | subShift (a : DpShift)
  | subRegShift (a : DpRegShift)
  | rsbImm (a : DpImm)
  | rsbShift (a : DpShift)
  | rsbRegShift (a : DpRegShift)
  | addImm (a : DpImm)
  | addShift (a : DpShift)
  | addRegShift (a : DpRegShift)
  | adcImm (a : DpImm)
  | adcShift (a : DpShift)
  | adcRegShift (a : DpRegShift)
  | sbcImm (a : DpImm)
  | sbcShift (a : DpShift)
  | sbcRegShift (a : DpRegShift)
  | rscImm (a : DpImm)
  | rscShift (a : DpShift)
  | rscRegShift (a : DpRegShift)
  | tstImm (a : TestImm)
  | tstShift (a : TestShift)
  | tstRegShift (a : TestRegShift)
  | teqImm (a : TestImm)
  | teqShift (a : TestShift)
  | teqRegShift (a : TestRegShift)
  | cmpImm (a : TestImm)
  | cmpShift (a : TestShift)
  | cmpRegShift (a : TestRegShift)
  | cmnImm (a : TestImm)
  | cmnShift (a : TestShift)
  | cmnRegShift (a : TestRegShift)
  | orrImm (a : DpImm)
  | orrShift (a : DpShift)
  | orrRegShift (a : DpRegShift)
  | movImm (a : DpImm)
  | movShift (a : DpShift)
  | movRegShift (a : DpRegShift)
  | bicImm (a : DpImm)
  | bicShift (a : DpShift)
  | bicRegShift (a : DpRegShift)
  | mvnImm (a : DpImm)
  | mvnShift (a : DpShift)
  | mvnRegShift (a : DpRegShift)
  | mrs (a : MrsArgs)
  | msr (a : MsrRegArgs)
  | msrFlgReg (a : MsrRegArgs)
  | msrFlgImm (a : MsrImmArgs)
  | mul (a : MulArgs)
  | mla (a : MulArgs)
  | swp (a : SwpArgs)
  | swpb (a : SwpArgs)
  | ldrImm (a : SdtImm)
  | ldrbImm (a : SdtImm)
  | strImm (a : SdtImm)
  | strbImm (a : SdtImm)
  | ldrReg (a : SdtReg)
  | ldrbReg (a : SdtReg)
  | strReg (a : SdtReg)
  | strbReg (a : SdtReg)
  | undefined (a : UndefArgs)
  | ldm (a : Bdt)
  | stm (a : Bdt)
  | b (a : BranchArgs)
  | bl (a : BranchArgs)
  | ldc (a : Cdt)
  | stc (a : Cdt)
  | cdp (a : Cdo)
  | mrc (a : Crt)
  | mcr (a : Crt)
  | swi (a : SwiArgs)
  | mrcId (a : Cp15Args)
  | mrcFsr (a : Cp15Args)
  | mrcFar (a : Cp15Args)
  | mcrControl (a : Cp15Args)
  | mcrTtb (a : Cp15Args)
  | mcrDacr (a : Cp15Args)
  | mcrTlbFlush (a : Cp15Args)
  | mcrTlbPurge (a : Cp15Args)
  | mcrIdcFlush (a : Cp15Args)
  deriving DecidableEq, Repr

end Sys2Proof
end

