-- ==== Sys2Proof/WellFormed.lean ====
section
/-! DEFINITION. The well-formed instructions: those whose word decodes to them and not to a more special row. -/

namespace Sys2Proof

/-- An MRC to a register of coprocessor 15 that has a row of its own (ID, FSR, FAR; R250, R481) is that row. -/
def Crt.mrcGeneral (a : Crt) : Bool :=
  !(a.cp == 15#4 && (a.crn == 0#4 || a.crn == 5#4 || a.crn == 6#4))

/-- An MCR to a register of coprocessor 15 that has a row of its own (1, 2, 3, 5, 6, 7; R250, R481) is that row. -/
def Crt.mcrGeneral (a : Crt) : Bool :=
  !(a.cp == 15#4 && (a.crn == 1#4 || a.crn == 2#4 || a.crn == 3#4 || a.crn == 5#4 || a.crn == 6#4 || a.crn == 7#4))

/-- Every field of every format may hold any value (R222 to R236), but for the general MRC and MCR rows, which
exclude the words of the coprocessor 15 rows (R250: the special rows "must be tried first"). -/
def Instr.wellFormed : Instr → Bool
  | .andImm _ => true
  | .andShift _ => true
  | .andRegShift _ => true
  | .eorImm _ => true
  | .eorShift _ => true
  | .eorRegShift _ => true
  | .subImm _ => true
  | .subShift _ => true
  | .subRegShift _ => true
  | .rsbImm _ => true
  | .rsbShift _ => true
  | .rsbRegShift _ => true
  | .addImm _ => true
  | .addShift _ => true
  | .addRegShift _ => true
  | .adcImm _ => true
  | .adcShift _ => true
  | .adcRegShift _ => true
  | .sbcImm _ => true
  | .sbcShift _ => true
  | .sbcRegShift _ => true
  | .rscImm _ => true
  | .rscShift _ => true
  | .rscRegShift _ => true
  | .tstImm _ => true
  | .tstShift _ => true
  | .tstRegShift _ => true
  | .teqImm _ => true
  | .teqShift _ => true
  | .teqRegShift _ => true
  | .cmpImm _ => true
  | .cmpShift _ => true
  | .cmpRegShift _ => true
  | .cmnImm _ => true
  | .cmnShift _ => true
  | .cmnRegShift _ => true
  | .orrImm _ => true
  | .orrShift _ => true
  | .orrRegShift _ => true
  | .movImm _ => true
  | .movShift _ => true
  | .movRegShift _ => true
  | .bicImm _ => true
  | .bicShift _ => true
  | .bicRegShift _ => true
  | .mvnImm _ => true
  | .mvnShift _ => true
  | .mvnRegShift _ => true
  | .mrs _ => true
  | .msr _ => true
  | .msrFlgReg _ => true
  | .msrFlgImm _ => true
  | .mul _ => true
  | .mla _ => true
  | .swp _ => true
  | .swpb _ => true
  | .ldrImm _ => true
  | .ldrbImm _ => true
  | .strImm _ => true
  | .strbImm _ => true
  | .ldrReg _ => true
  | .ldrbReg _ => true
  | .strReg _ => true
  | .strbReg _ => true
  | .undefined _ => true
  | .ldm _ => true
  | .stm _ => true
  | .b _ => true
  | .bl _ => true
  | .ldc _ => true
  | .stc _ => true
  | .cdp _ => true
  | .mrc a => a.mrcGeneral
  | .mcr a => a.mcrGeneral
  | .swi _ => true
  | .mrcId _ => true
  | .mrcFsr _ => true
  | .mrcFar _ => true
  | .mcrControl _ => true
  | .mcrTtb _ => true
  | .mcrDacr _ => true
  | .mcrTlbFlush _ => true
  | .mcrTlbPurge _ => true
  | .mcrIdcFlush _ => true

end Sys2Proof
end

