-- ==== Sys2Proof/Decode.lean ====
section
/-! DEFINITION. The decoder of the ARM600, total on every word and on every list of bytes, and after it the encoder.
The partition is that of spec/30_encoding.md R222; the fields are those of R223 to R236. -/

namespace Sys2Proof

/-- The words that are no instruction (R257): they do not trap and have no stated effect. -/
inductive Reject where
  /-- R257 (a): bits 7 and 4 set in class 000, and neither a multiply nor a swap. -/
  | multiplySpace
  /-- R257 (b): a test opcode with S clear that is none of the four PSR transfers. -/
  | psrSpace
  /-- Fewer than four bytes: no word (R220). -/
  | tooShort
  deriving DecidableEq, Repr

/-! ### Fields -/

/-- The sixteen conditions by code (R281). -/
def Cond.ofBits (c : BitVec 4) : Cond :=
  match c.toNat with
  | 0 => .eq | 1 => .ne | 2 => .cs | 3 => .cc | 4 => .mi | 5 => .pl | 6 => .vs | 7 => .vc
  | 8 => .hi | 9 => .ls | 10 => .ge | 11 => .lt | 12 => .gt | 13 => .le | 14 => .al | _ => .nv

/-- The code of a condition (R281). -/
def Cond.toBits : Cond → BitVec 4
  | .eq => 0 | .ne => 1 | .cs => 2 | .cc => 3 | .mi => 4 | .pl => 5 | .vs => 6 | .vc => 7
  | .hi => 8 | .ls => 9 | .ge => 10 | .lt => 11 | .gt => 12 | .le => 13 | .al => 14 | .nv => 15

/-- The shift types by code (R224; PRESUMED, log entry 24). -/
def ShiftType.ofBits (c : BitVec 2) : ShiftType :=
  match c.toNat with
  | 0 => .lsl | 1 => .lsr | 2 => .asr | _ => .ror

/-- The code of a shift type (R224). -/
def ShiftType.toBits : ShiftType → BitVec 2
  | .lsl => 0 | .lsr => 1 | .asr => 2 | .ror => 3

/-- The data-processing operations by OpCode (R300). -/
def AluOp.ofBits (c : BitVec 4) : AluOp :=
  match c.toNat with
  | 0 => .and | 1 => .eor | 2 => .sub | 3 => .rsb | 4 => .add | 5 => .adc | 6 => .sbc | 7 => .rsc
  | 8 => .tst | 9 => .teq | 10 => .cmp | 11 => .cmn | 12 => .orr | 13 => .mov | 14 => .bic | _ => .mvn

/-- The OpCode of a data-processing operation (R300). -/
def AluOp.toBits : AluOp → BitVec 4
  | .and => 0 | .eor => 1 | .sub => 2 | .rsb => 3 | .add => 4 | .adc => 5 | .sbc => 6 | .rsc => 7
  | .tst => 8 | .teq => 9 | .cmp => 10 | .cmn => 11 | .orr => 12 | .mov => 13 | .bic => 14 | .mvn => 15

/-- One bit of a word, as a truth value. -/
def wbit (w : Word) (i : Nat) : Bool := w.getLsbD i

/-- `v[lo+len-1 : lo]` (R8). -/
abbrev field (w : Word) (lo len : Nat) : BitVec len := w.extractLsb' lo len

/-- A field at bits `lo + n - 1 : lo` of a word, the other bits 0 (R8). -/
def place {n : Nat} (lo : Nat) (v : BitVec n) : Word := v.setWidth 32 <<< lo

/-- The condition field of any word (R222). -/
def condOf (w : Word) : Cond := Cond.ofBits (field w 28 4)

/-! ### Reading the fields of each format -/

/-- R223, R225. -/
def DpImm.ofWord (w : Word) : DpImm :=
  ⟨condOf w, wbit w 20, field w 16 4, field w 12 4, field w 8 4, field w 0 8⟩
/-- R223, R224. -/
def DpShift.ofWord (w : Word) : DpShift :=
  ⟨condOf w, wbit w 20, field w 16 4, field w 12 4, field w 7 5, ShiftType.ofBits (field w 5 2), field w 0 4⟩
/-- R223, R224. -/
def DpRegShift.ofWord (w : Word) : DpRegShift :=
  ⟨condOf w, wbit w 20, field w 16 4, field w 12 4, field w 8 4, ShiftType.ofBits (field w 5 2), field w 0 4⟩
/-- R223, R225. -/
def TestImm.ofWord (w : Word) : TestImm :=
  ⟨condOf w, field w 16 4, field w 12 4, field w 8 4, field w 0 8⟩
/-- R223, R224. -/
def TestShift.ofWord (w : Word) : TestShift :=
  ⟨condOf w, field w 16 4, field w 12 4, field w 7 5, ShiftType.ofBits (field w 5 2), field w 0 4⟩
/-- R223, R224. -/
def TestRegShift.ofWord (w : Word) : TestRegShift :=
  ⟨condOf w, field w 16 4, field w 12 4, field w 8 4, ShiftType.ofBits (field w 5 2), field w 0 4⟩
/-- R226. -/
def MrsArgs.ofWord (w : Word) : MrsArgs := ⟨condOf w, wbit w 22, field w 12 4⟩
/-- R226. -/
def MsrRegArgs.ofWord (w : Word) : MsrRegArgs := ⟨condOf w, wbit w 22, field w 0 4⟩
/-- R226. -/
def MsrImmArgs.ofWord (w : Word) : MsrImmArgs := ⟨condOf w, wbit w 22, field w 8 4, field w 0 8⟩
/-- R227. -/
def MulArgs.ofWord (w : Word) : MulArgs :=
  ⟨condOf w, wbit w 20, field w 16 4, field w 12 4, field w 8 4, field w 0 4⟩
/-- R228. -/
def SwpArgs.ofWord (w : Word) : SwpArgs := ⟨condOf w, field w 16 4, field w 12 4, field w 0 4⟩
/-- R229. -/
def SdtImm.ofWord (w : Word) : SdtImm :=
  ⟨condOf w, wbit w 24, wbit w 23, wbit w 21, field w 16 4, field w 12 4, field w 0 12⟩
/-- R229. -/
def SdtReg.ofWord (w : Word) : SdtReg :=
  ⟨condOf w, wbit w 24, wbit w 23, wbit w 21, field w 16 4, field w 12 4, field w 7 5,
    ShiftType.ofBits (field w 5 2), field w 0 4⟩
/-- R230. -/
def UndefArgs.ofWord (w : Word) : UndefArgs := ⟨condOf w, field w 5 20, field w 0 4⟩
/-- R231. -/
def Bdt.ofWord (w : Word) : Bdt :=
  ⟨condOf w, wbit w 24, wbit w 23, wbit w 22, wbit w 21, field w 16 4, field w 0 16⟩
/-- R232. -/
def BranchArgs.ofWord (w : Word) : BranchArgs := ⟨condOf w, field w 0 24⟩
/-- R233. -/
def Cdt.ofWord (w : Word) : Cdt :=
  ⟨condOf w, wbit w 24, wbit w 23, wbit w 22, wbit w 21, field w 16 4, field w 12 4, field w 8 4, field w 0 8⟩
/-- R234. -/
def Cdo.ofWord (w : Word) : Cdo :=
  ⟨condOf w, field w 20 4, field w 16 4, field w 12 4, field w 8 4, field w 5 3, field w 0 4⟩
/-- R235. -/
def Crt.ofWord (w : Word) : Crt :=
  ⟨condOf w, field w 21 3, field w 16 4, field w 12 4, field w 8 4, field w 5 3, field w 0 4⟩
/-- R236. -/
def SwiArgs.ofWord (w : Word) : SwiArgs := ⟨condOf w, field w 0 24⟩
/-- R235, R481. -/
def Cp15Args.ofWord (w : Word) : Cp15Args := ⟨condOf w, field w 21 3, field w 12 4, field w 5 3, field w 0 4⟩

/-! ### Decoding -/

/-- Data processing with an immediate operand 2 (R250). -/
def decodeDpImm (w : Word) : Instr :=
  match AluOp.ofBits (field w 21 4) with
  | .and => .andImm (DpImm.ofWord w)
  | .eor => .eorImm (DpImm.ofWord w)
  | .sub => .subImm (DpImm.ofWord w)
  | .rsb => .rsbImm (DpImm.ofWord w)
  | .add => .addImm (DpImm.ofWord w)
  | .adc => .adcImm (DpImm.ofWord w)
  | .sbc => .sbcImm (DpImm.ofWord w)
  | .rsc => .rscImm (DpImm.ofWord w)
  | .tst => .tstImm (TestImm.ofWord w)
  | .teq => .teqImm (TestImm.ofWord w)
  | .cmp => .cmpImm (TestImm.ofWord w)
  | .cmn => .cmnImm (TestImm.ofWord w)
  | .orr => .orrImm (DpImm.ofWord w)
  | .mov => .movImm (DpImm.ofWord w)
  | .bic => .bicImm (DpImm.ofWord w)
  | .mvn => .mvnImm (DpImm.ofWord w)

/-- Data processing with an instruction-specified shift (R250). -/
def decodeDpShift (w : Word) : Instr :=
  match AluOp.ofBits (field w 21 4) with
  | .and => .andShift (DpShift.ofWord w)
  | .eor => .eorShift (DpShift.ofWord w)
  | .sub => .subShift (DpShift.ofWord w)
  | .rsb => .rsbShift (DpShift.ofWord w)
  | .add => .addShift (DpShift.ofWord w)
  | .adc => .adcShift (DpShift.ofWord w)
  | .sbc => .sbcShift (DpShift.ofWord w)
  | .rsc => .rscShift (DpShift.ofWord w)
  | .tst => .tstShift (TestShift.ofWord w)
  | .teq => .teqShift (TestShift.ofWord w)
  | .cmp => .cmpShift (TestShift.ofWord w)
  | .cmn => .cmnShift (TestShift.ofWord w)
  | .orr => .orrShift (DpShift.ofWord w)
  | .mov => .movShift (DpShift.ofWord w)
  | .bic => .bicShift (DpShift.ofWord w)
  | .mvn => .mvnShift (DpShift.ofWord w)

/-- Data processing with a register-specified shift (R250). -/
def decodeDpRegShift (w : Word) : Instr :=
  match AluOp.ofBits (field w 21 4) with
  | .and => .andRegShift (DpRegShift.ofWord w)
  | .eor => .eorRegShift (DpRegShift.ofWord w)
  | .sub => .subRegShift (DpRegShift.ofWord w)
  | .rsb => .rsbRegShift (DpRegShift.ofWord w)
  | .add => .addRegShift (DpRegShift.ofWord w)
  | .adc => .adcRegShift (DpRegShift.ofWord w)
  | .sbc => .sbcRegShift (DpRegShift.ofWord w)
  | .rsc => .rscRegShift (DpRegShift.ofWord w)
  | .tst => .tstRegShift (TestRegShift.ofWord w)
  | .teq => .teqRegShift (TestRegShift.ofWord w)
  | .cmp => .cmpRegShift (TestRegShift.ofWord w)
  | .cmn => .cmnRegShift (TestRegShift.ofWord w)
  | .orr => .orrRegShift (DpRegShift.ofWord w)
  | .mov => .movRegShift (DpRegShift.ofWord w)
  | .bic => .bicRegShift (DpRegShift.ofWord w)
  | .mvn => .mvnRegShift (DpRegShift.ofWord w)

/-- The words of class 000 with bits 7 and 4 set: multiply, swap, or unallocated (R222, R227, R228, R257 a). -/
def decodeMultiplySpace (w : Word) : Except Reject Instr :=
  if field w 22 6 = 0b000000#6 ∧ field w 4 4 = 0b1001#4 then
    .ok (if wbit w 21 then .mla (MulArgs.ofWord w) else .mul (MulArgs.ofWord w))
  else if field w 23 5 = 0b00010#5 ∧ field w 20 2 = 0b00#2 ∧ field w 4 8 = 0b00001001#8 then
    .ok (if wbit w 22 then .swpb (SwpArgs.ofWord w) else .swp (SwpArgs.ofWord w))
  else .error .multiplySpace

/-- The words of a test opcode with S clear: the four PSR transfers, or unallocated (R226, R257 b). -/
def decodePsrSpace (w : Word) : Except Reject Instr :=
  if field w 23 5 = 0b00010#5 ∧ field w 16 6 = 0b001111#6 ∧ field w 0 12 = 0#12 then .ok (.mrs (MrsArgs.ofWord w))
  else if field w 23 5 = 0b00010#5 ∧ field w 12 10 = 0b1010011111#10 ∧ field w 4 8 = 0#8 then
    .ok (.msr (MsrRegArgs.ofWord w))
  else if field w 23 5 = 0b00010#5 ∧ field w 12 10 = 0b1010001111#10 ∧ field w 4 8 = 0#8 then
    .ok (.msrFlgReg (MsrRegArgs.ofWord w))
  else if field w 23 5 = 0b00110#5 ∧ field w 12 10 = 0b1010001111#10 then .ok (.msrFlgImm (MsrImmArgs.ofWord w))
  else .error .psrSpace

/-- Whether the word is a test opcode with S clear, "which data processing never uses" (R222). -/
def inPsrSpace (w : Word) : Bool := field w 23 2 == 0b10#2 && !wbit w 20

/-- Single data transfer with an immediate offset: the B and L bits choose the instruction (R229). -/
def decodeSdtImm (w : Word) : Instr :=
  match wbit w 22, wbit w 20 with
  | false, true => .ldrImm (SdtImm.ofWord w)
  | true, true => .ldrbImm (SdtImm.ofWord w)
  | false, false => .strImm (SdtImm.ofWord w)
  | true, false => .strbImm (SdtImm.ofWord w)

/-- Single data transfer with a register offset (R229). -/
def decodeSdtReg (w : Word) : Instr :=
  match wbit w 22, wbit w 20 with
  | false, true => .ldrReg (SdtReg.ofWord w)
  | true, true => .ldrbReg (SdtReg.ofWord w)
  | false, false => .strReg (SdtReg.ofWord w)
  | true, false => .strbReg (SdtReg.ofWord w)

/-- MRC: the coprocessor 15 rows are tried before the general one (R250). -/
def decodeMrc (w : Word) : Instr :=
  if field w 8 4 = 15#4 then
    match (field w 16 4).toNat with
    | 0 => .mrcId (Cp15Args.ofWord w)
    | 5 => .mrcFsr (Cp15Args.ofWord w)
    | 6 => .mrcFar (Cp15Args.ofWord w)
    | _ => .mrc (Crt.ofWord w)
  else .mrc (Crt.ofWord w)

/-- MCR: the coprocessor 15 rows are tried before the general one (R250). -/
def decodeMcr (w : Word) : Instr :=
  if field w 8 4 = 15#4 then
    match (field w 16 4).toNat with
    | 1 => .mcrControl (Cp15Args.ofWord w)
    | 2 => .mcrTtb (Cp15Args.ofWord w)
    | 3 => .mcrDacr (Cp15Args.ofWord w)
    | 5 => .mcrTlbFlush (Cp15Args.ofWord w)
    | 6 => .mcrTlbPurge (Cp15Args.ofWord w)
    | 7 => .mcrIdcFlush (Cp15Args.ofWord w)
    | _ => .mcr (Crt.ofWord w)
  else .mcr (Crt.ofWord w)

/-- The instruction a word is, by the ordered tests of R222; a word that is none is rejected by name (R257). -/
def decodeWord (w : Word) : Except Reject Instr :=
  match (field w 25 3).toNat with
  | 0 =>
    if wbit w 7 && wbit w 4 then decodeMultiplySpace w
    else if inPsrSpace w then decodePsrSpace w
    else .ok (if wbit w 4 then decodeDpRegShift w else decodeDpShift w)
  | 1 => if inPsrSpace w then decodePsrSpace w else .ok (decodeDpImm w)
  | 2 => .ok (decodeSdtImm w)
  | 3 => .ok (if wbit w 4 then .undefined (UndefArgs.ofWord w) else decodeSdtReg w)
  | 4 => .ok (if wbit w 20 then .ldm (Bdt.ofWord w) else .stm (Bdt.ofWord w))
  | 5 => .ok (if wbit w 24 then .bl (BranchArgs.ofWord w) else .b (BranchArgs.ofWord w))
  | 6 => .ok (if wbit w 20 then .ldc (Cdt.ofWord w) else .stc (Cdt.ofWord w))
  | _ =>
    .ok (if wbit w 24 then .swi (SwiArgs.ofWord w)
         else if !wbit w 4 then .cdp (Cdo.ofWord w)
         else if wbit w 20 then decodeMrc w else decodeMcr w)

/-- A bus word from its four byte lanes, lane 0 (D[7:0]) first: the order in which the little-endian configuration,
the one after reset, stores an instruction (R101, R103). -/
def wordOfLanes (b0 b1 b2 b3 : Byte) : Word := place 24 b3 ||| place 16 b2 ||| place 8 b1 ||| place 0 b0

/-- The four lanes of a bus word, lane 0 first (R101). -/
def lanesOfWord (w : Word) : List Byte := [field w 0 8, field w 8 8, field w 16 8, field w 24 8]

/-- Decodes the first instruction of a list of bytes and returns it with the bytes after it; an instruction is one
word (R220). -/
def decode : List Byte → Except Reject (Instr × List Byte)
  | b0 :: b1 :: b2 :: b3 :: rest =>
    match decodeWord (wordOfLanes b0 b1 b2 b3) with
    | .ok i => .ok (i, rest)
    | .error r => .error r
  | _ => .error .tooShort

/-- The instruction the decoder reads from a row of spec/opcode_table.json whose bits are `w`: its word is laid out
in its four lanes and given to `decode`. Every row has 32 bits. -/
def decodeTableWord (nbits w : Nat) : Option Instr :=
  match decode (lanesOfWord (BitVec.ofNat 32 (w % 2 ^ nbits))) with
  | .ok (i, _) => some i
  | .error _ => none

/-! ### Encoding -/

/-- One bit as a field. -/
def ofBool1 (b : Bool) : BitVec 1 := BitVec.ofBool b

/-- R223, R225: `cond 00 1 OpCode S Rn Rd Rotate Imm`. -/
def DpImm.toWord (op : AluOp) (a : DpImm) : Word :=
  place 28 a.cond.toBits ||| place 25 0b001#3 ||| place 21 op.toBits ||| place 20 (ofBool1 a.s)
    ||| place 16 a.rn ||| place 12 a.rd ||| place 8 a.rotate ||| place 0 a.imm
/-- R223, R224: `cond 00 0 OpCode S Rn Rd amount type 0 Rm`. -/
def DpShift.toWord (op : AluOp) (a : DpShift) : Word :=
  place 28 a.cond.toBits ||| place 25 0b000#3 ||| place 21 op.toBits ||| place 20 (ofBool1 a.s)
    ||| place 16 a.rn ||| place 12 a.rd ||| place 7 a.amount ||| place 5 a.type.toBits ||| place 4 0b0#1
    ||| place 0 a.rm
/-- R223, R224: `cond 00 0 OpCode S Rn Rd Rs 0 type 1 Rm`. -/
def DpRegShift.toWord (op : AluOp) (a : DpRegShift) : Word :=
  place 28 a.cond.toBits ||| place 25 0b000#3 ||| place 21 op.toBits ||| place 20 (ofBool1 a.s)
    ||| place 16 a.rn ||| place 12 a.rd ||| place 8 a.rs ||| place 7 0b0#1 ||| place 5 a.type.toBits
    ||| place 4 0b1#1 ||| place 0 a.rm
/-- The S bit of a test operation is always set (R328). -/
def TestImm.toWord (op : AluOp) (a : TestImm) : Word :=
  DpImm.toWord op ⟨a.cond, true, a.rn, a.rd, a.rotate, a.imm⟩
/-- The S bit of a test operation is always set (R328). -/
def TestShift.toWord (op : AluOp) (a : TestShift) : Word :=
  DpShift.toWord op ⟨a.cond, true, a.rn, a.rd, a.amount, a.type, a.rm⟩
/-- The S bit of a test operation is always set (R328). -/
def TestRegShift.toWord (op : AluOp) (a : TestRegShift) : Word :=
  DpRegShift.toWord op ⟨a.cond, true, a.rn, a.rd, a.rs, a.type, a.rm⟩
/-- R226: `cond 00010 Ps 00 1111 Rd 0000 0000 0000`. -/
def MrsArgs.toWord (a : MrsArgs) : Word :=
  place 28 a.cond.toBits ||| place 23 0b00010#5 ||| place 22 (ofBool1 a.spsr) ||| place 16 0b001111#6
    ||| place 12 a.rd ||| place 0 0b000000000000#12
/-- R226: `cond 00010 Pd 10 1001 1111 0000 0000 Rm`, and with 1000 for the flag bits only. -/
def MsrRegArgs.toWord (fields : BitVec 10) (a : MsrRegArgs) : Word :=
  place 28 a.cond.toBits ||| place 23 0b00010#5 ||| place 22 (ofBool1 a.spsr) ||| place 12 fields
    ||| place 4 0b00000000#8 ||| place 0 a.rm
/-- R226: `cond 00110 Pd 10 1000 1111 Rotate Imm`. -/
def MsrImmArgs.toWord (a : MsrImmArgs) : Word :=
  place 28 a.cond.toBits ||| place 23 0b00110#5 ||| place 22 (ofBool1 a.spsr) ||| place 12 0b1010001111#10
    ||| place 8 a.rotate ||| place 0 a.imm
/-- R227: `cond 000000 A S Rd Rn Rs 1001 Rm`. -/
def MulArgs.toWord (accumulate : BitVec 1) (a : MulArgs) : Word :=
  place 28 a.cond.toBits ||| place 22 0b000000#6 ||| place 21 accumulate ||| place 20 (ofBool1 a.s)
    ||| place 16 a.rd ||| place 12 a.rn ||| place 8 a.rs ||| place 4 0b1001#4 ||| place 0 a.rm
/-- R228: `cond 00010 B 00 Rn Rd 0000 1001 Rm`. -/
def SwpArgs.toWord (byte : BitVec 1) (a : SwpArgs) : Word :=
  place 28 a.cond.toBits ||| place 23 0b00010#5 ||| place 22 byte ||| place 20 0b00#2 ||| place 16 a.rn
    ||| place 12 a.rd ||| place 4 0b00001001#8 ||| place 0 a.rm
/-- R229: `cond 01 0 P U B W L Rn Rd Offset`. -/
def SdtImm.toWord (byte load : BitVec 1) (a : SdtImm) : Word :=
  place 28 a.cond.toBits ||| place 25 0b010#3 ||| place 24 (ofBool1 a.p) ||| place 23 (ofBool1 a.u)
    ||| place 22 byte ||| place 21 (ofBool1 a.w) ||| place 20 load ||| place 16 a.rn ||| place 12 a.rd
    ||| place 0 a.offset
/-- R229: `cond 01 1 P U B W L Rn Rd amount type 0 Rm`. -/
def SdtReg.toWord (byte load : BitVec 1) (a : SdtReg) : Word :=
  place 28 a.cond.toBits ||| place 25 0b011#3 ||| place 24 (ofBool1 a.p) ||| place 23 (ofBool1 a.u)
    ||| place 22 byte ||| place 21 (ofBool1 a.w) ||| place 20 load ||| place 16 a.rn ||| place 12 a.rd
    ||| place 7 a.amount ||| place 5 a.type.toBits ||| place 4 0b0#1 ||| place 0 a.rm
/-- R230: `cond 011 x…x 1 xxxx`. -/
def UndefArgs.toWord (a : UndefArgs) : Word :=
  place 28 a.cond.toBits ||| place 25 0b011#3 ||| place 5 a.high ||| place 4 0b1#1 ||| place 0 a.low
/-- R231: `cond 100 P U S W L Rn RegisterList`. -/
def Bdt.toWord (load : BitVec 1) (a : Bdt) : Word :=
  place 28 a.cond.toBits ||| place 25 0b100#3 ||| place 24 (ofBool1 a.p) ||| place 23 (ofBool1 a.u)
    ||| place 22 (ofBool1 a.s) ||| place 21 (ofBool1 a.w) ||| place 20 load ||| place 16 a.rn ||| place 0 a.list
/-- R232: `cond 101 L Offset`. -/
def BranchArgs.toWord (link : BitVec 1) (a : BranchArgs) : Word :=
  place 28 a.cond.toBits ||| place 25 0b101#3 ||| place 24 link ||| place 0 a.offset
/-- R233: `cond 110 P U N W L Rn CRd CP# Offset`. -/
def Cdt.toWord (load : BitVec 1) (a : Cdt) : Word :=
  place 28 a.cond.toBits ||| place 25 0b110#3 ||| place 24 (ofBool1 a.p) ||| place 23 (ofBool1 a.u)
    ||| place 22 (ofBool1 a.n) ||| place 21 (ofBool1 a.w) ||| place 20 load ||| place 16 a.rn
    ||| place 12 a.crd ||| place 8 a.cp ||| place 0 a.offset
/-- R234: `cond 1110 CPOpc CRn CRd CP# CP 0 CRm`. -/
def Cdo.toWord (a : Cdo) : Word :=
  place 28 a.cond.toBits ||| place 24 0b1110#4 ||| place 20 a.opc ||| place 16 a.crn ||| place 12 a.crd
    ||| place 8 a.cp ||| place 5 a.info ||| place 4 0b0#1 ||| place 0 a.crm
/-- R235: `cond 1110 CPOpc L CRn Rd CP# CP 1 CRm`. -/
def Crt.toWord (load : BitVec 1) (a : Crt) : Word :=
  place 28 a.cond.toBits ||| place 24 0b1110#4 ||| place 21 a.opc ||| place 20 load ||| place 16 a.crn
    ||| place 12 a.rd ||| place 8 a.cp ||| place 5 a.info ||| place 4 0b1#1 ||| place 0 a.crm
/-- R236: `cond 1111 comment`. -/
def SwiArgs.toWord (a : SwiArgs) : Word :=
  place 28 a.cond.toBits ||| place 24 0b1111#4 ||| place 0 a.comment
/-- R481: the register transfer format with CP# = 1111 and the register number `crn`. -/
def Cp15Args.toWord (load : BitVec 1) (crn : BitVec 4) (a : Cp15Args) : Word :=
  Crt.toWord load ⟨a.cond, a.opc, crn, a.rd, 15#4, a.info, a.crm⟩

/-- The word of an instruction, from the formats of R223 to R236 and R481. -/
def encode : Instr → Word
  | .andImm a => a.toWord .and
  | .andShift a => a.toWord .and
  | .andRegShift a => a.toWord .and
  | .eorImm a => a.toWord .eor
  | .eorShift a => a.toWord .eor
  | .eorRegShift a => a.toWord .eor
  | .subImm a => a.toWord .sub
  | .subShift a => a.toWord .sub
  | .subRegShift a => a.toWord .sub
  | .rsbImm a => a.toWord .rsb
  | .rsbShift a => a.toWord .rsb
  | .rsbRegShift a => a.toWord .rsb
  | .addImm a => a.toWord .add
  | .addShift a => a.toWord .add
  | .addRegShift a => a.toWord .add
  | .adcImm a => a.toWord .adc
  | .adcShift a => a.toWord .adc
  | .adcRegShift a => a.toWord .adc
  | .sbcImm a => a.toWord .sbc
  | .sbcShift a => a.toWord .sbc
  | .sbcRegShift a => a.toWord .sbc
  | .rscImm a => a.toWord .rsc
  | .rscShift a => a.toWord .rsc
  | .rscRegShift a => a.toWord .rsc
  | .tstImm a => a.toWord .tst
  | .tstShift a => a.toWord .tst
  | .tstRegShift a => a.toWord .tst
  | .teqImm a => a.toWord .teq
  | .teqShift a => a.toWord .teq
  | .teqRegShift a => a.toWord .teq
  | .cmpImm a => a.toWord .cmp
  | .cmpShift a => a.toWord .cmp
  | .cmpRegShift a => a.toWord .cmp
  | .cmnImm a => a.toWord .cmn
  | .cmnShift a => a.toWord .cmn
  | .cmnRegShift a => a.toWord .cmn
  | .orrImm a => a.toWord .orr
  | .orrShift a => a.toWord .orr
  | .orrRegShift a => a.toWord .orr
  | .movImm a => a.toWord .mov
  | .movShift a => a.toWord .mov
  | .movRegShift a => a.toWord .mov
  | .bicImm a => a.toWord .bic
  | .bicShift a => a.toWord .bic
  | .bicRegShift a => a.toWord .bic
  | .mvnImm a => a.toWord .mvn
  | .mvnShift a => a.toWord .mvn
  | .mvnRegShift a => a.toWord .mvn
  | .mrs a => a.toWord
  | .msr a => a.toWord 0b1010011111#10
  | .msrFlgReg a => a.toWord 0b1010001111#10
  | .msrFlgImm a => a.toWord
  | .mul a => a.toWord 0#1
  | .mla a => a.toWord 1#1
  | .swp a => a.toWord 0#1
  | .swpb a => a.toWord 1#1
  | .ldrImm a => a.toWord 0#1 1#1
  | .ldrbImm a => a.toWord 1#1 1#1
  | .strImm a => a.toWord 0#1 0#1
  | .strbImm a => a.toWord 1#1 0#1
  | .ldrReg a => a.toWord 0#1 1#1
  | .ldrbReg a => a.toWord 1#1 1#1
  | .strReg a => a.toWord 0#1 0#1
  | .strbReg a => a.toWord 1#1 0#1
  | .undefined a => a.toWord
  | .ldm a => a.toWord 1#1
  | .stm a => a.toWord 0#1
  | .b a => a.toWord 0#1
  | .bl a => a.toWord 1#1
  | .ldc a => a.toWord 1#1
  | .stc a => a.toWord 0#1
  | .cdp a => a.toWord
  | .mrc a => a.toWord 1#1
  | .mcr a => a.toWord 0#1
  | .swi a => a.toWord
  | .mrcId a => a.toWord 1#1 0#4
  | .mrcFsr a => a.toWord 1#1 5#4
  | .mrcFar a => a.toWord 1#1 6#4
  | .mcrControl a => a.toWord 0#1 1#4
  | .mcrTtb a => a.toWord 0#1 2#4
  | .mcrDacr a => a.toWord 0#1 3#4
  | .mcrTlbFlush a => a.toWord 0#1 5#4
  | .mcrTlbPurge a => a.toWord 0#1 6#4
  | .mcrIdcFlush a => a.toWord 0#1 7#4

end Sys2Proof
end

