-- ==== Sys2Proof/Machine/State.lean ====
section
/-! DEFINITION. The state of the ARM600 as plain data (spec/10_state.md), the reasons a step stops, and the state
after reset. -/

namespace Sys2Proof.Machine

open Sys2Proof

/-- The six modes (R51). -/
inductive Mode where
  | usr | fiq | irq | svc | abt | und
  deriving DecidableEq, Repr

/-- The CPSR (R45): the flags, the interrupt disable bits and the mode. Its reserved bits are not state (R53), and no
instruction can leave another mode value in it (R52). -/
structure Cpsr where
  n : Bool
  z : Bool
  c : Bool
  v : Bool
  i : Bool
  f : Bool
  mode : Mode
  deriving DecidableEq, Repr

/-- An SPSR (R44, R45): it "may hold any bit pattern" in M[4:0] (R52). -/
structure Psr where
  n : Bool
  z : Bool
  c : Bool
  v : Bool
  i : Bool
  f : Bool
  m : BitVec 5
  deriving DecidableEq, Repr

/-- The control register, coprocessor 15 register 1 (R56), bits 0 to 8 in order. -/
structure Control where
  m : Bool
  a : Bool
  c : Bool
  w : Bool
  p : Bool
  d : Bool
  l : Bool
  b : Bool
  s : Bool
  deriving DecidableEq, Repr

/-- The granule of a TLB entry with its virtual tag, its physical base and its access permissions (R71, R162). -/
inductive Granule where
  /-- 1 Mbyte: tag va[31:20], one AP field (R169). -/
  | sect (tag base : BitVec 12) (ap : BitVec 2)
  /-- 64 Kbytes: tag va[31:16], AP3 to AP0 (R174). -/
  | large (tag base : BitVec 16) (ap : BitVec 8)
  /-- 4 Kbytes: tag va[31:12], AP3 to AP0 (R173). -/
  | small (tag base : BitVec 20) (ap : BitVec 8)
  deriving DecidableEq, Repr

/-- A TLB entry (R71). -/
structure TlbEntry where
  granule : Granule
  domain : BitVec 4
  c : Bool
  b : Bool
  u : Bool
  deriving DecidableEq, Repr

/-- A valid cache line (R72): the virtual tag, address bits 31:4, and four words. -/
structure IdcLine where
  tag : BitVec 28
  data : Vector Word 4
  deriving DecidableEq, Repr

/-- What a write puts on a bus word: the whole word, or one byte lane (R105, R107). -/
inductive BusWrite where
  | word (v : Word)
  | lane (k : BitVec 2) (v : Byte)
  deriving DecidableEq, Repr

/-- A buffered write (R73): the physical address, what is written there, and whether it continues the address run of
the entry before it (R143). -/
structure WbEntry where
  addr : Word
  write : BusWrite
  seq : Bool
  deriving DecidableEq, Repr

/-- A prefetched word, or its abort mark (R75, R76), with the control register and the privilege in force when it
was fetched. -/
structure Fetched where
  word : Option Word
  control : Control
  privileged : Bool
  deriving DecidableEq, Repr

/-- What the outside drives at one instruction boundary (R540, R571, R599): NRESET LOW, NFIQ LOW, NIRQ LOW, and the
words that other bus masters write there (address, bus word). -/
structure Inputs where
  reset : Bool
  fiq : Bool
  irq : Bool
  dma : List (Word × Word)
  deriving DecidableEq, Repr

/-- What the outside does at one external bus transfer (R30, R124, R148, R202, R468, R571, R599): the words that other
bus masters and devices write since the transfer before, ABORT raised for this one, the word with which a device answers
a read in place of what memory holds, and NRESET falling while it is made (log entry 42). -/
structure BusAnswer where
  dma : List (Word × Word)
  abort : Bool
  data : Option Word
  reset : Bool
  deriving DecidableEq, Repr

/-- The policy of the open parameter `CFG26` (R81, D1): what a control register write that leaves P or D at 0 does. -/
inductive Cfg26 where
  /-- The 32-bit rules apply regardless. -/
  | same
  /-- No rule applies: the write is refused. -/
  | refuse
  deriving DecidableEq, Repr

/-- A coprocessor's answer to an instruction offered to it (R460, R461). -/
inductive CoprocAnswer where
  /-- No coprocessor accepts: the undefined instruction trap (R463). -/
  | refuse
  /-- Busy: ARM600 waits, and can be interrupted (R462). -/
  | busy
  /-- Busy at this offer and at every later one: "A coprocessor that never goes not-busy" (R462). -/
  | neverReady
  /-- Accepted: `count` words are transferred by LDC or STC (at least one), `data` are the words it supplies to MRC
  or STC. -/
  | accept (count : Nat) (data : List Word)
  deriving DecidableEq, Repr

/-- What a coprocessor is given (R460, R463): the instruction word, `Privileged()` when it is offered, and the words
sent. -/
structure CoprocEvent where
  word : Word
  privileged : Bool
  sent : List Word
  deriving DecidableEq, Repr

/-- Physical memory as (address, byte lane) pairs: the cell at W + k is lane D[8k+7:8k] of the bus word at W
(R100, R101), strictly rising, no entry 0x00 (log entries 5 and 13). -/
abbrev Memory := List Host.Cell

/-- The faults that stop the machine: there is none, since every abort and trap that the spec describes is taken and
spec/93_implementation_defined.md treats no row as a fault. -/
inductive Fault where
  deriving DecidableEq, Repr

/-- The spec gives no outcome. Each is safe: the model stops where the hardware does something unstated. -/
inductive Refusal where
  /-- Raised by an arm of `exec` whose instruction has no meaning yet. Safe. -/
  | notModelled (mnemonic : String)
  /-- Raised by the step for a word that is no instruction and whose condition passes (R257). Safe. -/
  | unallocated (r : Reject)
  /-- Raised where a value that is none of the six modes would reach CPSR M[4:0] (R52). Safe. -/
  | invalidMode
  /-- Raised by an instruction that names R15 where it "shall not be" (R307, R357, R373, R389, R417, R445). Safe. -/
  | pcOperand
  /-- Raised by a transfer with write-back whose base is R15 (R389, R465). Safe. -/
  | pcWriteBack
  /-- Raised in User mode by an instruction that names the SPSR or returns through it (R319, R357, R426). Safe. -/
  | spsrInUser
  /-- Raised by a post-indexed register offset with Rm = Rn (R389). Safe. -/
  | postIndexSameRegister
  /-- Raised by a single data transfer with P = 0 and W = 1 (R391). Safe. -/
  | postIndexedW
  /-- Raised by LDM or STM with an empty register list (R412). Safe. -/
  | emptyList
  /-- Raised by a User-bank LDM or STM with write-back (R421, R422). Safe. -/
  | userBankWriteBack
  /-- Raised by a control register write that turns the cache or write buffer on with the MMU off (R139). Safe. -/
  | invalidCombination
  /-- Raised by a control register write that leaves P or D at 0 where `CFG26` is `refuse` (R81, R488). Safe. -/
  | cfg26
  /-- Raised by the write buffer where a buffered write is externally aborted: "the machine must be reset" (R144, D16).
  Safe. -/
  | bufferedWriteAborted
  /-- Raised by a cacheable read where word 1, 2 or 3 of its linefetch is externally aborted: "the IDC will contain a
  corrupt line" (R202, D16). Safe. -/
  | linefetchAborted
  deriving DecidableEq, Repr

/-- The state of the machine (INVENTORY.md lists each field with its rule). -/
structure State where
  /-- R0 to R14 (0 to 14), R8_fiq to R14_fiq (15 to 21), R13 and R14 of irq (22), svc (24), abt (26), und (28). -/
  regs : Vector Word 30
  /-- R15 as the address of the instruction being executed (R38). -/
  pc : Word
  cpsr : Cpsr
  spsrFiq : Psr
  spsrIrq : Psr
  spsrSvc : Psr
  spsrAbt : Psr
  spsrUnd : Psr
  control : Control
  /-- Bits 31:14 of the translation table base (R57). -/
  ttb : BitVec 18
  dacr : Word
  /-- Domain and status (R59). -/
  fsr : BitVec 8
  far : Word
  tlb : Vector (Option TlbEntry) 32
  /-- The entry the next table walk replaces (R162). -/
  tlbNext : Fin 32
  idc : Vector (Option IdcLine) 256
  /-- Oldest first. -/
  writeBuffer : List WbEntry
  /-- The words already fetched from `pc` on. -/
  prefetch : List Fetched
  /-- The coprocessor instruction on which ARM600 busy-waits (R462). -/
  waiting : Option Word
  /-- 1 while the instruction after a User-bank LDM runs (R590), 2 at the end of that LDM, else 0. -/
  hazard : Nat
  mem : Memory
  /-- The physical addresses, from the first up to and without the second, that answer ABORT (R202). -/
  abortRanges : List (Nat × Nat)
  /-- One entry for each coming external bus transfer; none left is a transfer that nothing disturbs (log entry 42). -/
  busTape : List BusAnswer
  /-- One entry for each coming instruction boundary. -/
  inputs : List Inputs
  /-- The answers of coprocessors 0 to 14 to the coming offers. -/
  coprocTape : List CoprocAnswer
  /-- What the coprocessors were given, newest first. -/
  coprocSent : List CoprocEvent
  /-- `CFG26` (R81), which nothing changes (log entry 6). -/
  cfg26 : Cfg26
  /-- The counter that free values are applied to (log entry 14). -/
  draws : Nat
  deriving DecidableEq, Repr

/-- All flags and mode bits 0 (DESIGN CHOICE, log entry 2). -/
def Psr.zero : Psr := ⟨false, false, false, false, false, false, 0#5⟩

/-- The control register after reset: "All bits in this register are forced LOW" (R56). -/
def Control.zero : Control := ⟨false, false, false, false, false, false, false, false, false⟩

/-- The machine right after reset (R80, R570). Supervisor mode, I and F set, pc 0, control register 0, IDC and write
buffer empty are the spec's; every other value is the model's (log entries 1 to 6, 10 to 12, 42). -/
def State.reset : State where
  regs := Vector.replicate 30 0#32
  pc := 0#32
  cpsr := ⟨false, false, false, false, true, true, .svc⟩
  spsrFiq := Psr.zero
  spsrIrq := Psr.zero
  spsrSvc := Psr.zero
  spsrAbt := Psr.zero
  spsrUnd := Psr.zero
  control := Control.zero
  ttb := 0#18
  dacr := 0#32
  fsr := 0#8
  far := 0#32
  tlb := Vector.replicate 32 none
  tlbNext := 0
  idc := Vector.replicate 256 none
  writeBuffer := []
  prefetch := []
  waiting := none
  hazard := 0
  mem := []
  abortRanges := []
  busTape := []
  inputs := []
  coprocTape := []
  coprocSent := []
  cfg26 := .same
  draws := 0

/-- The outcome of an instruction or a step. -/
abbrev Result := Host.Outcome State Fault Refusal

end Sys2Proof.Machine
end

