-- ==== Sys2Proof/Machine/Memory.lean ====
section
/-! DEFINITION. Physical memory: its canonical form, one byte lane, one bus word (spec/20_memory.md R100 to R109), what
lands in it and which of its words answer ABORT (R148, R202). -/

namespace Sys2Proof.Machine

open Sys2Proof

/-- What a byte lane that nothing has written reads as (DESIGN CHOICE, log entry 5). -/
def unlistedByte : Byte := 0x00#8

/-- The cell at physical address `a`. -/
def Memory.read : Memory → Nat → Byte
  | [], _ => unlistedByte
  | (k, v) :: rest, a => if a = k then v else Memory.read rest a

/-- The list that holds `v` at `a` before `rest`, or only `rest` where `v` is what an unlisted address reads as. -/
def Memory.put (a : Nat) (v : Byte) (rest : Memory) : Memory :=
  if v = unlistedByte then rest else (a, v) :: rest

/-- Writes the cell at physical address `a` and keeps the canonical form. -/
def Memory.write : Memory → Nat → Byte → Memory
  | [], a, v => Memory.put a v []
  | (k, w) :: rest, a, v =>
    if a < k then Memory.put a v ((k, w) :: rest)
    else if a = k then Memory.put a v rest
    else (k, w) :: Memory.write rest a v

/-- The canonical form from address `lo` on. -/
def Memory.wfFrom : Nat → Memory → Bool
  | _, [] => true
  | lo, (k, v) :: rest => decide (lo ≤ k) && decide (k < 2 ^ 32) && decide (v ≠ unlistedByte) && Memory.wfFrom (k + 1) rest

/-- The canonical form: addresses strictly rising and below 2^32, no entry equal to what an unlisted address reads
as. -/
def Memory.wf (m : Memory) : Bool := Memory.wfFrom 0 m

/-- The address with bits [1:0] cleared (R110 step 3). -/
def wordAddr (a : Word) : Word := a >>> 2 <<< 2

/-- The low two address bits (R101). -/
def laneBits (a : Word) : BitVec 2 := a.extractLsb' 0 2

/-- The lane of a bus word at which the byte of address bits `i` lies: lane `i` little-endian, lane `3 - i`
big-endian (R101). -/
def laneOf (big : Bool) (i : BitVec 2) : BitVec 2 := if big then 3#2 - i else i

/-- Lane `k` of a bus word, `D[8k+7:8k]`. -/
def getLane (w : Word) (k : BitVec 2) : Byte := w.extractLsb' (8 * k.toNat) 8

/-- A bus word with lane `k` replaced. -/
def setLane (w : Word) (k : BitVec 2) (v : Byte) : Word :=
  (w &&& ~~~(0xFF#32 <<< (8 * k.toNat))) ||| (v.setWidth 32 <<< (8 * k.toNat))

/-- `PM[W]`: the bus word at the word address of `a` (R100). -/
def Memory.readWord (m : Memory) (a : Word) : Word :=
  let w := (wordAddr a).toNat
  wordOfLanes (Memory.read m w) (Memory.read m (w + 1)) (Memory.read m (w + 2)) (Memory.read m (w + 3))

/-- `PM[W] <- v` (R107: A[1:0] is ignored on a word transfer, log entry 13). -/
def Memory.writeWord (m : Memory) (a v : Word) : Memory :=
  let w := (wordAddr a).toNat
  Memory.write (Memory.write (Memory.write (Memory.write m w (getLane v 0#2)) (w + 1) (getLane v 1#2))
    (w + 2) (getLane v 2#2)) (w + 3) (getLane v 3#2)

/-- One lane of `PM[W]` written by a byte store; the other three lanes unchanged (R105). -/
def Memory.writeLane (m : Memory) (a : Word) (k : BitVec 2) (v : Byte) : Memory :=
  Memory.write m ((wordAddr a).toNat + k.toNat) v

/-- A write as it lands in physical memory (R105, R107). -/
def BusWrite.onMemory (w : BusWrite) (m : Memory) (pa : Word) : Memory :=
  match w with
  | .word v => Memory.writeWord m pa v
  | .lane k v => Memory.writeLane m pa k v

/-- The words that other bus masters and devices write, in order (R148, R599). -/
def applyDma : List (Word × Word) → Memory → Memory
  | [], m => m
  | (a, v) :: rest, m => applyDma rest (Memory.writeWord m a v)

/-- Whether the bus word of a physical address always answers ABORT (R202; log entry 12). -/
def State.aborts (s : State) (pa : Word) : Bool :=
  s.abortRanges.any fun r => decide (r.1 ≤ (wordAddr pa).toNat) && decide ((wordAddr pa).toNat < r.2)

end Sys2Proof.Machine
end

