-- ==== Sys2Proof/Machine/Ops.lean ====
section
/-! DEFINITION. The named operations over the registers and the status registers; taking an exception and returning
from one (spec/10_state.md, spec/60_exceptions.md). -/

namespace Sys2Proof.Machine

open Sys2Proof

/-! ### Modes and status registers -/

/-- M[4:0] of a mode (R51). -/
def modeBits : Mode → BitVec 5
  | .usr => 0b10000#5
  | .fiq => 0b10001#5
  | .irq => 0b10010#5
  | .svc => 0b10011#5
  | .abt => 0b10111#5
  | .und => 0b11011#5

/-- The mode of M[4:0]; none for the 26 values that are no mode (R51, R52). -/
def modeOfBits (m : BitVec 5) : Option Mode :=
  if m = 0b10000#5 then some .usr
  else if m = 0b10001#5 then some .fiq
  else if m = 0b10010#5 then some .irq
  else if m = 0b10011#5 then some .svc
  else if m = 0b10111#5 then some .abt
  else if m = 0b11011#5 then some .und
  else none

/-- `Privileged()`: any mode but User (00_scope R10). -/
def State.privileged (s : State) : Bool := s.cpsr.mode != .usr

/-- The CPSR as an SPSR holds it (R511). -/
def saveCpsr (c : Cpsr) : Psr := ⟨c.n, c.z, c.c, c.v, c.i, c.f, modeBits c.mode⟩

/-- The CPSR an SPSR gives when it is copied back; none where its mode number is invalid (R52). -/
def restorePsr (p : Psr) : Option Cpsr :=
  match modeOfBits p.m with
  | some mode => some ⟨p.n, p.z, p.c, p.v, p.i, p.f, mode⟩
  | none => none

/-- The SPSR of a mode; User mode has none (R44). -/
def State.spsrOf (s : State) : Mode → Option Psr
  | .usr => none
  | .fiq => some s.spsrFiq
  | .irq => some s.spsrIrq
  | .svc => some s.spsrSvc
  | .abt => some s.spsrAbt
  | .und => some s.spsrUnd

/-- `SPSR[cur]` (R44). -/
def State.spsr (s : State) : Option Psr := s.spsrOf s.cpsr.mode

/-- Writes the SPSR of a mode; User mode has none to write (R44). -/
def State.setSpsr (s : State) (m : Mode) (p : Psr) : State :=
  match m with
  | .usr => s
  | .fiq => { s with spsrFiq := p }
  | .irq => { s with spsrIrq := p }
  | .svc => { s with spsrSvc := p }
  | .abt => { s with spsrAbt := p }
  | .und => { s with spsrUnd := p }

/-- The CPSR with the flags replaced. -/
def Cpsr.withFlags (p : Cpsr) (n z c v : Bool) : Cpsr := { p with n := n, z := z, c := c, v := v }

/-- The stored bits of a PSR as a word whose reserved bits 27:8 and 5 are those of `rest` (R45, R53). -/
def psrWord (p : Psr) (rest : Word) : Word :=
  place 31 (ofBool1 p.n) ||| place 30 (ofBool1 p.z) ||| place 29 (ofBool1 p.c) ||| place 28 (ofBool1 p.v)
    ||| place 8 (field rest 8 20) ||| place 7 (ofBool1 p.i) ||| place 6 (ofBool1 p.f)
    ||| place 5 (field rest 5 1) ||| place 0 p.m

/-- The stored bits of a word written to a whole PSR; the reserved bits are not stored (R45, R53, R352). -/
def psrOfWord (w : Word) : Psr := ⟨wbit w 31, wbit w 30, wbit w 29, wbit w 28, wbit w 7, wbit w 6, field w 0 5⟩

/-! ### General registers -/

/-- The place of R`i` (below 15) of a mode in the register file: see `State.regs` (R33). -/
def bankIndex (m : Mode) (i : Nat) : Nat :=
  match m with
  | .usr => i
  | .fiq => if 8 ≤ i then i + 7 else i
  | .irq => if 13 ≤ i then i + 9 else i
  | .svc => if 13 ≤ i then i + 11 else i
  | .abt => if 13 ≤ i then i + 13 else i
  | .und => if 13 ≤ i then i + 15 else i

/-- `phys(i, M)` (R33); for R15, which no bank holds, the callers never ask. -/
def phys (m : Mode) (r : RegNum) : Fin 30 := Fin.ofNat 30 (bankIndex m r.toNat)

/-- Whether a register number is banked in a mode: R13 and R14 in irq, svc, abt, und, R8 to R14 in fiq (R590). -/
def isBanked (m : Mode) (r : RegNum) : Bool := r != 15#4 && phys m r != phys .usr r

/-- The value of R`r` (R0 to R14) in the bank of a mode (R33). -/
def State.regIn (s : State) (m : Mode) (r : RegNum) : Word := s.regs[phys m r]

/-- Writes R`r` (R0 to R14) in the bank of a mode. -/
def State.setRegIn (s : State) (m : Mode) (r : RegNum) (v : Word) : State :=
  { s with regs := s.regs.set (phys m r) v }

/-- Whether reading this register number gives a free value: the instruction follows a User-bank LDM and the number
is banked in the current mode (R590). -/
def State.hazardous (s : State) (r : RegNum) : Bool := s.hazard == 1 && isBanked s.cpsr.mode r

/-- `x[r]`, or `pc + ahead` for R15 (R40). -/
def State.readReg (s : State) (role : Role) (r : RegNum) (ahead : Word) : Word :=
  if r = 15#4 then s.pc + ahead
  else if s.hazardous r then Config.free (.bankedRead role r) s.draws
  else s.regIn s.cpsr.mode r

/-- `xu[r]`, or `pc + ahead` for R15: the User bank whatever the mode (R35, R421); "An STM of the user bank has no such
hazard" (R590). -/
def State.readUserReg (s : State) (r : RegNum) (ahead : Word) : Word :=
  if r = 15#4 then s.pc + ahead else s.regIn .usr r

/-- `x[r] <- v` for R0 to R14. -/
def State.setReg (s : State) (r : RegNum) (v : Word) : State := s.setRegIn s.cpsr.mode r v

/-! ### The program counter -/

/-- The next instruction is at `pc + 4` (R38, R43). -/
def State.advance (s : State) : State := { s with pc := s.pc + 4#32 }

/-- `pc <- v`: bits [1:0] are discarded and so are the prefetched instructions (R41, R76; log entry 25). -/
def State.branchTo (s : State) (v : Word) : State := { s with pc := wordAddr v, prefetch := [] }

/-- A register write that ends an instruction: R15 is a branch, another register goes on at `pc + 4` (R41). -/
def State.writeRd (s : State) (r : RegNum) (v : Word) : State :=
  if r = 15#4 then s.branchTo v else (s.setReg r v).advance

/-! ### Exceptions -/

/-- The common entry sequence `Enter(m, vector, ret, setF)` (R511); an interrupt breaks off a busy-wait (R462). -/
def State.enter (s : State) (m : Mode) (vector ret : Word) (setF : Bool) : State :=
  { (s.setRegIn m 14#4 ret).setSpsr m (saveCpsr s.cpsr) with
    cpsr := { s.cpsr with mode := m, i := true, f := s.cpsr.f || setF }
    pc := vector
    prefetch := []
    waiting := none }

/-- Undefined instruction entry (R534, R455). -/
def State.enterUndefined (s : State) : State := s.enter .und 0x00000004#32 (s.pc + 4#32) false

/-- Software interrupt entry (R533, R451). -/
def State.enterSwi (s : State) : State := s.enter .svc 0x00000008#32 (s.pc + 4#32) false

/-- Prefetch abort entry (R524, R525). -/
def State.enterPrefetchAbort (s : State) : State := s.enter .abt 0x0000000C#32 (s.pc + 4#32) false

/-- Data abort entry, after FSR and FAR were written (R525). -/
def State.enterDataAbort (s : State) : State := s.enter .abt 0x00000010#32 (s.pc + 8#32) false

/-- IRQ entry: `pc` is the next instruction (R521, R541; log entry 35 on "plus 4"). -/
def State.enterIrq (s : State) : State := s.enter .irq 0x00000018#32 (s.pc + 4#32) false

/-- FIQ entry: `pc` is the next instruction (R520, R541). -/
def State.enterFiq (s : State) : State := s.enter .fiq 0x0000001C#32 (s.pc + 4#32) true

/-- `CPSR <- SPSR[cur]` (R319, R336, R420): refused in User mode, which has no SPSR, and where the mode number is
invalid (R52). -/
def State.restoreCpsr (s : State) : Host.Outcome State Fault Refusal :=
  match s.spsr with
  | none => .refused .spsrInUser
  | some p =>
    match restorePsr p with
    | none => .refused .invalidMode
    | some c => .next { s with cpsr := c }

/-- The return from an exception, `pc <- v; CPSR <- SPSR[cur]` in one step (R319, R420, R545). -/
def State.returnTo (s : State) (v : Word) : Host.Outcome State Fault Refusal :=
  (s.branchTo v).restoreCpsr

end Sys2Proof.Machine
end

