-- ==== Sys2Proof/Machine/Flags.lean ====
section
/-! DEFINITION. The conditions and the flag computations (spec/40_branch.md R281, spec/41_data_processing.md R303,
R304, spec/43_multiply.md R374). -/

namespace Sys2Proof.Machine

open Sys2Proof

/-- `CondPassed(c)` on the flags (R281). -/
def condPassed (c : Cond) (p : Cpsr) : Bool :=
  match c with
  | .eq => p.z
  | .ne => !p.z
  | .cs => p.c
  | .cc => !p.c
  | .mi => p.n
  | .pl => !p.n
  | .vs => p.v
  | .vc => !p.v
  | .hi => p.c && !p.z
  | .ls => !p.c || p.z
  | .ge => p.n == p.v
  | .lt => p.n != p.v
  | .gt => !p.z && p.n == p.v
  | .le => p.z || p.n != p.v
  | .al => true
  | .nv => false

/-- What the ALU gives: the result, and the carry and overflow of the arithmetic class (R302). -/
structure AluOut where
  result : Word
  c : Bool
  v : Bool
  deriving DecidableEq, Repr

/-- `AddWithCarry(a, b, c)` (00_scope R10): the exact sums, then the result and what it dropped. -/
def addWithCarry (a b : Word) (c : Bool) : AluOut :=
  let carryIn := if c then 1 else 0
  let usum : Nat := a.toNat + b.toNat + carryIn
  let ssum : Int := a.toInt + b.toInt + carryIn
  ⟨BitVec.ofNat 32 usum, decide (2 ^ 32 ≤ usum), decide (ssum < -2 ^ 31 ∨ 2 ^ 31 ≤ ssum)⟩

/-- N and Z of a result, with the given C and V (R303, R374). -/
def Cpsr.withResult (p : Cpsr) (result : Word) (c v : Bool) : Cpsr :=
  p.withFlags (wbit result 31) (decide (result = 0#32)) c v

/-- The flags of the logical class: C is the shifter carry-out, V is unaffected (R303). -/
def Cpsr.logical (p : Cpsr) (result : Word) (shc : Bool) : Cpsr := p.withResult result shc p.v

/-- The flags of the arithmetic class (R303). -/
def Cpsr.arithmetic (p : Cpsr) (o : AluOut) : Cpsr := p.withResult o.result o.c o.v

/-- The flags of MULS and MLAS: C is "set to a meaningless value", V is unaffected (R374). -/
def State.multiplyFlags (s : State) (result : Word) : Cpsr :=
  s.cpsr.withResult result (wbit (Config.free .mulCarry s.draws) 0) s.cpsr.v

/-- The flags of MLAS with Rd = Rm: N and Z are open too (R372; spec/93_implementation_defined.md row 2), C and V as for
every multiply (R374). -/
def State.meaninglessFlags (s : State) : Cpsr :=
  s.cpsr.withFlags (wbit (Config.free .mlaFlags s.draws) 31) (wbit (Config.free .mlaFlags s.draws) 30)
    (wbit (Config.free .mulCarry s.draws) 0) s.cpsr.v

/-- Bits 31:28 of a word to N, Z, C, V (R354, R470). -/
def Cpsr.flagsOfWord (p : Cpsr) (w : Word) : Cpsr := p.withFlags (wbit w 31) (wbit w 30) (wbit w 29) (wbit w 28)

end Sys2Proof.Machine
end

