-- ==== Sys2Proof/Machine/Operands.lean ====
section
/-! DEFINITION. The operand forms: the barrel shifter, operand 2, and the addresses of the transfer instructions
(spec/41_data_processing.md R305 to R311, spec/44 R382, spec/45 R411, spec/48 R465). -/

namespace Sys2Proof.Machine

open Sys2Proof

/-- A value and the shifter carry-out. -/
structure Shifted where
  value : Word
  carry : Bool
  deriving DecidableEq, Repr

/-- All bits equal to `b`. -/
def fill (b : Bool) : Word := if b then 0xFFFFFFFF#32 else 0x00000000#32

/-- A shift by 1 to 31 places: the last bit shifted out is the carry (R305, rows n >= 1). -/
def shiftBy (v : Word) (type : ShiftType) (n : Nat) : Shifted :=
  match type with
  | .lsl => ⟨v <<< n, wbit v (32 - n)⟩
  | .lsr => ⟨v >>> n, wbit v (n - 1)⟩
  | .asr => ⟨v.sshiftRight n, wbit v (n - 1)⟩
  | .ror => ⟨v.rotateRight n, wbit v (n - 1)⟩

/-- `ShiftImm(v, type, n, Cin)`: the amount in the instruction, 0 encoding LSL #0, LSR #32, ASR #32 and RRX (R305). -/
def shiftImm (v : Word) (type : ShiftType) (n : BitVec 5) (cin : Bool) : Shifted :=
  if n = 0#5 then
    match type with
    | .lsl => ⟨v, cin⟩
    | .lsr => ⟨0#32, wbit v 31⟩
    | .asr => ⟨fill (wbit v 31), wbit v 31⟩
    | .ror => ⟨place 31 (ofBool1 cin) ||| v >>> 1, wbit v 0⟩
  else shiftBy v type n.toNat

/-- `ShiftReg(v, type, n, Cin)`: the amount in the bottom byte of a register, 0 to 255 (R306). -/
def shiftReg (v : Word) (type : ShiftType) (amount : Byte) (cin : Bool) : Shifted :=
  let n := amount.toNat
  if n = 0 then ⟨v, cin⟩
  else if n < 32 then shiftBy v type n
  else
    match type with
    | .lsl => if n = 32 then ⟨0#32, wbit v 0⟩ else ⟨0#32, false⟩
    | .lsr => if n = 32 then ⟨0#32, wbit v 31⟩ else ⟨0#32, false⟩
    | .asr => ⟨fill (wbit v 31), wbit v 31⟩
    | .ror => if n % 32 = 0 then ⟨v, wbit v 31⟩ else shiftBy v .ror (n % 32)

/-- `ROR(zext_8(Imm), 2 * Rotate)` (R240, R310). -/
def rotatedImm (rotate : BitVec 4) (imm : Byte) : Word := (imm.setWidth 32).rotateRight (2 * rotate.toNat)

/-- Operand 2 as an immediate: the carry-out is C for Rotate = 0, else bit 31 of the value (R310; PRESUMED, log
entry 24). -/
def operandImm (rotate : BitVec 4) (imm : Byte) (cin : Bool) : Shifted :=
  let v := rotatedImm rotate imm
  ⟨v, if rotate = 0#4 then cin else wbit v 31⟩

/-- Operand 2 as a register shifted by an amount in the instruction (R311); R15 reads `pc + 8`. -/
def State.operandShift (s : State) (rm : RegNum) (type : ShiftType) (amount : BitVec 5) : Shifted :=
  shiftImm (s.readReg .rm rm 8#32) type amount s.cpsr.c

/-- Operand 2 as a register shifted by the bottom byte of `rs` (R311); R15 as `rm` reads `pc + 12`. -/
def State.operandRegShift (s : State) (rm : RegNum) (type : ShiftType) (rs : RegNum) : Shifted :=
  shiftReg (s.readReg .rm rm 12#32) type (field (s.readReg .rs rs 12#32) 0 8) s.cpsr.c

/-- `base + offset` or `base - offset` (R382, R465; log entry 25). -/
def offsetBy (u : Bool) (base offset : Word) : Word := if u then base + offset else base - offset

/-- The transfer address, the moved base, and whether the base is written back (R382, R465). -/
structure TransferAddr where
  addr : Word
  moved : Word
  wb : Bool
  deriving DecidableEq, Repr

/-- `SDT_Address` from the offset: pre-indexed or post-indexed; post-indexed always writes back (R382, R383). -/
def State.sdtAddr (s : State) (p u w : Bool) (rn : RegNum) (offset : Word) : TransferAddr :=
  let base := s.readReg .base rn 8#32
  let moved := offsetBy u base offset
  ⟨if p then moved else base, moved, !p || w⟩

/-- `SDT_Address` with the immediate offset (R382). -/
def State.sdtAddrImm (s : State) (a : SdtImm) : TransferAddr :=
  s.sdtAddr a.p a.u a.w a.rn (a.offset.setWidth 32)

/-- `SDT_Address` with the shifted register offset, the carry-out discarded (R382). -/
def State.sdtAddrReg (s : State) (a : SdtReg) : TransferAddr :=
  s.sdtAddr a.p a.u a.w a.rn (s.operandShift a.rm a.type a.amount).value

/-- `CDT_Address`: a word offset, write-back by W alone (R465). -/
def State.cdtAddr (s : State) (a : Cdt) : TransferAddr :=
  let base := s.readReg .base a.rn 8#32
  let moved := offsetBy a.u base (a.offset.setWidth 32 <<< 2)
  ⟨if a.p then moved else base, moved, a.w⟩

/-- The registers of a list in ascending order (R244, R411). -/
def regList (list : BitVec 16) : List RegNum :=
  ((List.range 16).filter fun i => list.getLsbD i).map fun i => BitVec.ofNat 4 i

/-- The first address and the written-back base of a block transfer of `n` registers (R411). -/
def bdtAddresses (p u : Bool) (base : Word) (n : Nat) : Word × Word :=
  let size := BitVec.ofNat 32 (4 * n)
  match u, p with
  | true, false => (base, base + size)
  | true, true => (base + 4#32, base + size)
  | false, false => (base - size + 4#32, base - size)
  | false, true => (base - size, base - size)

end Sys2Proof.Machine
end

