-- ==== Sys2Proof/Machine/Reset.lean ====
section
/-! DEFINITION. Reset of a running machine, at an instruction boundary or inside a bus transfer (spec/10_state.md R80,
spec/70_reset_and_hazards.md R570 to R572). -/

namespace Sys2Proof.Machine

open Sys2Proof

/-- A free TLB entry, present or not, for the contents that a reset leaves unspecified (R80). -/
def freeTlbEntry (w v : Word) : Option TlbEntry :=
  let granule : Granule :=
    match (field w 0 2).toNat with
    | 0 => .sect (field w 20 12) (field v 20 12) (field v 0 2)
    | 1 => .large (field w 16 16) (field v 16 16) (field v 0 8)
    | _ => .small (field w 12 20) (field v 12 20) (field v 0 8)
  if wbit w 2 then some ⟨granule, field w 4 4, wbit w 8, wbit w 9, wbit w 10⟩ else none

/-- The `k`-th word of what a reset leaves unspecified (R572). -/
def State.resetWord (s : State) (k : Nat) : Word := Config.free (.resetWord k) s.draws

/-- Reset (R570, R80): what the rules force, and a free value for everything they leave unspecified. The instruction it
falls in is abandoned, and the buffered writes not yet performed are lost (R571; log entry 31). -/
def State.warmReset (s : State) : State :=
  { s with
    regs := Vector.ofFn fun i => s.resetWord i.val
    pc := 0x00000000#32
    cpsr := ⟨wbit (s.resetWord 30) 31, wbit (s.resetWord 30) 30, wbit (s.resetWord 30) 29, wbit (s.resetWord 30) 28,
      true, true, .svc⟩
    spsrFiq := psrOfWord (s.resetWord 31)
    spsrIrq := psrOfWord (s.resetWord 32)
    spsrSvc := psrOfWord (s.resetWord 33)
    spsrAbt := psrOfWord (s.resetWord 34)
    spsrUnd := psrOfWord (s.resetWord 35)
    control := Control.zero
    ttb := field (s.resetWord 36) 14 18
    dacr := s.resetWord 37
    fsr := field (s.resetWord 38) 0 8
    far := s.resetWord 39
    tlb := Vector.ofFn fun i => freeTlbEntry (s.resetWord (64 + 2 * i.val)) (s.resetWord (65 + 2 * i.val))
    tlbNext := Fin.ofNat 32 (s.resetWord 40).toNat
    idc := Vector.replicate 256 none
    writeBuffer := []
    prefetch := []
    waiting := none
    hazard := 0
    draws := s.draws + 1 }

/-- The `n` oldest buffered writes as they stand in memory when a reset finds them, `k` counting them: one that is
externally aborted may or may not have changed memory (R571; log entry 31). -/
def State.resetDrain : Nat → Nat → State → State
  | 0, _, s => s
  | n + 1, k, s =>
    match s.writeBuffer with
    | [] => s
    | e :: rest =>
      State.resetDrain n (k + 1) { s with
        mem := if s.aborts e.addr && !wbit (Config.free (.resetAbort k) s.draws) 0 then s.mem
          else e.write.onMemory s.mem e.addr
        writeBuffer := rest }

/-- A reset at an instruction boundary: a free number of the buffered writes has reached memory by then (R141, R571; log
entry 31). -/
def State.boundaryReset (s : State) : State :=
  (s.resetDrain ((Config.free .resetDrain s.draws).toNat % (s.writeBuffer.length + 1)) 0).warmReset

end Sys2Proof.Machine
end

