-- ==== Sys2Proof/Machine/Bus.lean ====
section
/-! DEFINITION. The external bus: its transfers, external aborts, the write buffer, external reads and writes
(spec/20_memory.md R140 to R148, spec/21_mmu.md R200 to R203). -/

namespace Sys2Proof.Machine

open Sys2Proof

/-- Why an access aborts; `page` says page rather than section (R195, R200). -/
inductive MemFault where
  | alignment
  | linefetch (page : Bool) (domain : BitVec 4)
  | external (page : Bool) (domain : BitVec 4)
  /-- An external abort with the MMU off (R203). -/
  | externalFlat
  /-- A bus error on the level one fetch. -/
  | walk1
  /-- A bus error on the level two fetch. -/
  | walk2 (domain : BitVec 4)
  | translation (page : Bool) (domain : BitVec 4)
  | domain (page : Bool) (domain : BitVec 4)
  | permission (page : Bool) (domain : BitVec 4)
  deriving DecidableEq, Repr

/-- The FSR of a fault, domain over status; the bits the spec leaves open come from `open_` (R200, R203). -/
def MemFault.fsr (f : MemFault) (open_ : Word) : BitVec 8 :=
  match f with
  | .alignment => field open_ 4 4 ++ 0b00#2 ++ field open_ 0 1 ++ 1#1
  | .linefetch page d => d ++ 0b01#2 ++ ofBool1 page ++ 0#1
  | .external page d => d ++ 0b10#2 ++ ofBool1 page ++ 0#1
  | .externalFlat => field open_ 4 4 ++ 0b10#2 ++ field open_ 0 1 ++ 0#1
  | .walk1 => field open_ 4 4 ++ 0b1100#4
  | .walk2 d => d ++ 0b1110#4
  | .translation page d => d ++ 0b01#2 ++ ofBool1 page ++ 1#1
  | .domain page d => d ++ 0b10#2 ++ ofBool1 page ++ 1#1
  | .permission page d => d ++ 0b11#2 ++ ofBool1 page ++ 1#1

/-- What an access gives: a value and the state after it, an abort and the state after it, or the outcome of the
instruction that made it: a refusal, or the machine after a reset that fell inside the access. -/
inductive Access (α : Type) where
  | done (a : α) (s : State)
  | abort (f : MemFault) (s : State)
  | halt (r : Result)

/-- One access after another: an abort or an outcome ends the sequence. -/
def Access.andThen {α β : Type} (x : Access α) (k : α → State → Access β) : Access β :=
  match x with
  | .done a s => k a s
  | .abort f s => .abort f s
  | .halt r => .halt r

/-- The next free value is another one (log entry 14). -/
def State.bump (s : State) : State := { s with draws := s.draws + 1 }

/-- A write as it lands in a cached word (R133). -/
def BusWrite.onWord (w : BusWrite) (old : Word) : Word :=
  match w with
  | .word v => v
  | .lane k v => setLane old k v

/-- Whether this is a word write, the only kind that can be misaligned (R120). -/
def BusWrite.isWord : BusWrite → Bool
  | .word _ => true
  | .lane _ _ => false

/-! ### One transfer -/

/-- Nothing disturbs the transfer: what an exhausted tape means (log entry 42). -/
def BusAnswer.idle : BusAnswer := ⟨[], false, none, false⟩

/-- What the outside does at the next external bus transfer (R599). -/
def State.busAnswer (s : State) : BusAnswer :=
  match s.busTape with
  | [] => BusAnswer.idle
  | a :: _ => a

/-- The words that other bus masters and devices write around a transfer (R124, R148). -/
def State.otherMasters (s : State) (a : BusAnswer) : State := { s with mem := applyDma a.dma s.mem }

/-- The word that a read transfer brings, and whether ABORT was raised for it. -/
structure BusWord where
  word : Word
  aborted : Bool
  deriving DecidableEq, Repr

/-- One read transfer: the device's word, or what memory holds; a reset that falls inside it ends the instruction (R30,
R148, R202, R571; log entry 42). DESIGN CHOICE, log entry 33: LOCK goes HIGH with the read transfer of a swap and no
earlier, so that other bus masters may write between the table walk or the buffered writes before it and that read. -/
def State.readTransfer (s : State) (pa : Word) : Access BusWord :=
  let a := s.busAnswer
  let s' := { s with busTape := s.busTape.tail }.otherMasters a
  if a.reset then .halt (.next s'.warmReset)
  else .done ⟨a.data.getD (Memory.readWord s'.mem pa), s'.aborts pa || a.abort⟩ s'

/-- Whether a write transfer changes memory: free where it is aborted (R202; log entry 22) and where a reset cuts it off
(R571). -/
def State.writeLands (s : State) (aborted reset : Bool) : Bool :=
  if reset then wbit (Config.free .cutWrite s.draws) 0
  else !aborted || wbit (Config.free .abortedWrite s.draws) 0

/-- One write transfer; it answers whether ABORT was raised for it. `locked` is LOCK, which the other bus masters wait
for: their words land after the write (R77, R148; log entry 42). -/
def State.writeTransfer (s : State) (pa : Word) (w : BusWrite) (locked : Bool) : Access Bool :=
  let a := s.busAnswer
  let s1 := { s with busTape := s.busTape.tail }
  let s2 := if locked then s1 else s1.otherMasters a
  let aborted := s2.aborts pa || a.abort
  let s3 := { s2 with
    mem := if s2.writeLands aborted a.reset then w.onMemory s2.mem pa else s2.mem
    draws := if aborted || a.reset then s2.draws + 1 else s2.draws }
  let s4 := if locked then s3.otherMasters a else s3
  if a.reset then .halt (.next s4.warmReset) else .done aborted s4

/-! ### The write buffer -/

/-- Performs the `n` oldest buffered writes in order (R146); one that is externally aborted is refused (R144). -/
def State.drain : Nat → State → Access Unit
  | 0, s => .done () s
  | n + 1, s =>
    match s.writeBuffer with
    | [] => .done () s
    | e :: rest =>
      ({ s with writeBuffer := rest }.writeTransfer e.addr e.write false).andThen fun aborted s' =>
        if aborted then .halt (.refused .bufferedWriteAborted) else State.drain n s'

/-- Performs every buffered write (R146; log entry 19). -/
def State.drainAll (s : State) : Access Unit := s.drain s.writeBuffer.length

/-- Performs a free number of buffered writes: the buffer drains by itself (R141). -/
def State.drainSome (s : State) : Access Unit :=
  match s.writeBuffer with
  | [] => .done () s
  | _ :: _ => s.drain ((Config.free .drainCount s.draws).toNat % (s.writeBuffer.length + 1))

/-- How many address slots the buffered writes take (R143). -/
def wbRuns : List WbEntry → Nat
  | [] => 0
  | _ :: rest => 1 + (rest.filter fun e => !e.seq).length

/-- Whether a write to `pa` continues the address run of the newest buffered write (R143). -/
def State.continuesRun (s : State) (pa : Word) (seq : Bool) : Bool :=
  match s.writeBuffer.getLast? with
  | none => false
  | some e => seq && e.addr + 4#32 == pa

/-- Whether the buffer has a data slot and an address slot for the write (R140, R141). -/
def State.hasRoom (s : State) (pa : Word) (seq : Bool) : Bool :=
  decide (s.writeBuffer.length < 8) && (s.continuesRun pa seq || decide (wbRuns s.writeBuffer < 2))

/-- The stall: performs the oldest writes until there is room (R141). -/
def State.makeRoom (pa : Word) (seq : Bool) : Nat → State → Access Unit
  | 0, s => .done () s
  | n + 1, s =>
    if s.hasRoom pa seq then .done () s
    else (s.drain 1).andThen fun _ s' => State.makeRoom pa seq n s'

/-- A bufferable write: "the data is placed in the Write Buffer" (R141). -/
def State.bufferWrite (s : State) (pa : Word) (w : BusWrite) (seq : Bool) : Access Unit :=
  (State.makeRoom pa seq s.writeBuffer.length s).andThen fun _ s' =>
    .done () { s' with writeBuffer := s'.writeBuffer ++ [⟨pa, w, s'.continuesRun pa seq⟩] }

/-! ### External reads and writes -/

/-- An external read of the bus word at `pa`, after all buffered writes (R146); `f` is the fault of an abort. -/
def State.busRead (s : State) (pa : Word) (f : MemFault) : Access Word :=
  s.drainAll.andThen fun _ s1 =>
    (s1.readTransfer pa).andThen fun r s2 => if r.aborted then .abort f s2 else .done r.word s2

/-- An external write, after all buffered writes (R142, R146). -/
def State.busWrite (s : State) (pa : Word) (w : BusWrite) (locked : Bool) (f : MemFault) : Access Unit :=
  s.drainAll.andThen fun _ s1 =>
    (s1.writeTransfer pa w locked).andThen fun aborted s2 => if aborted then .abort f s2 else .done () s2

end Sys2Proof.Machine
end

