-- ==== Sys2Proof/Machine/Mmu.lean ====
section
/-! DEFINITION. Address translation and protection (spec/21_mmu.md). -/

namespace Sys2Proof.Machine

open Sys2Proof

/-- The attributes of an access (R161): cacheable, bufferable, updateable, and the kind (page or section) and domain
of the translation entry, none with the MMU off. -/
structure Attr where
  c : Bool
  b : Bool
  u : Bool
  entry : Option (Bool × BitVec 4)
  deriving DecidableEq, Repr

/-- With the MMU off there is no entry: uncacheable and unbufferable (R112). -/
def Attr.flat : Attr := ⟨false, false, false, none⟩

/-- The fault of an external abort on the access itself (R200, R203). -/
def Attr.externalFault (a : Attr) : MemFault :=
  match a.entry with
  | none => .externalFlat
  | some (page, d) => .external page d

/-- The fault of an external abort on word 0 of a linefetch (R200). -/
def Attr.linefetchFault (a : Attr) : MemFault :=
  match a.entry with
  | none => .externalFlat
  | some (page, d) => .linefetch page d

/-- Whether a TLB entry covers a virtual address (R162). -/
def TlbEntry.covers (e : TlbEntry) (va : Word) : Bool :=
  match e.granule with
  | .sect tag _ _ => tag == field va 20 12
  | .large tag _ _ => tag == field va 16 16
  | .small tag _ _ => tag == field va 12 20

/-- Whether an entry is a page rather than a section. -/
def TlbEntry.isPage (e : TlbEntry) : Bool :=
  match e.granule with
  | .sect _ _ _ => false
  | .large _ _ _ => true
  | .small _ _ _ => true

/-- The physical address of `va` (R169, R173, R174). -/
def TlbEntry.physical (e : TlbEntry) (va : Word) : Word :=
  match e.granule with
  | .sect _ base _ => place 20 base ||| place 0 (field va 0 20)
  | .large _ base _ => place 16 base ||| place 0 (field va 0 16)
  | .small _ base _ => place 12 base ||| place 0 (field va 0 12)

/-- The access permission field that applies to `va`: that of the section, or of the sub-page, one quarter of the page
(R191; log entry 35). -/
def TlbEntry.apFor (e : TlbEntry) (va : Word) : BitVec 2 :=
  match e.granule with
  | .sect _ _ ap => ap
  | .large _ _ ap => ap.extractLsb' (2 * (field va 14 2).toNat) 2
  | .small _ _ ap => ap.extractLsb' (2 * (field va 10 2).toNat) 2

/-- `Permitted(ap, S, privileged, rw)` (R190). -/
def permitted (ap : BitVec 2) (sBit privileged write : Bool) : Bool :=
  match ap.toNat with
  | 0 => sBit && privileged && !write
  | 1 => privileged
  | 2 => privileged || !write
  | _ => true

/-- The valid TLB entries that cover `va` (R162). -/
def State.tlbHits (s : State) (va : Word) : List TlbEntry :=
  s.tlb.toList.filterMap fun o => o.filter fun e => e.covers va

/-- One of several TLB entries that cover an address: which one is free, and free again at the next access (R10, R175;
log entry 21). -/
def State.tlbChoose (s : State) (e : TlbEntry) (rest : List TlbEntry) : TlbEntry :=
  (e :: rest).getD ((Config.free .tlbChoice s.draws).toNat % (rest.length + 1)) e

/-- The level one descriptor's address (R165). -/
def State.levelOneAddr (s : State) (va : Word) : Word := place 14 s.ttb ||| place 2 (field va 20 12)

/-- The level two descriptor's address (R170). -/
def levelTwoAddr (l1 va : Word) : Word := place 10 (field l1 10 22) ||| place 2 (field va 12 8)

/-- C of a page: bit 2 as printed, or bit 3 as in a section (R171; log entry 7). -/
def pageC (l2 : Word) : Bool :=
  if wbit l2 2 = wbit l2 3 then wbit l2 2 else if Config.pteCbAsPrinted then wbit l2 2 else wbit l2 3

/-- B of a page: bit 3 as printed, or bit 2 as in a section (R171; log entry 7). -/
def pageB (l2 : Word) : Bool :=
  if wbit l2 2 = wbit l2 3 then wbit l2 2 else if Config.pteCbAsPrinted then wbit l2 3 else wbit l2 2

/-- The entry of a section descriptor (R168, R169). DESIGN CHOICE, log entry 41: bits 9 and 19:12 are not looked at. -/
def sectionEntry (l1 va : Word) : TlbEntry :=
  ⟨.sect (field va 20 12) (field l1 20 12) (field l1 10 2), field l1 5 4, wbit l1 3, wbit l1 2, wbit l1 4⟩

/-- The entry of a large page: U and the domain come from level one (R174). DESIGN CHOICE, log entry 41: bits 15:12 of
level two and bits 9 and 3:2 of level one are not looked at. -/
def largeEntry (l1 l2 va : Word) : TlbEntry :=
  ⟨.large (field va 16 16) (field l2 16 16) (field l2 4 8), field l1 5 4, pageC l2, pageB l2, wbit l1 4⟩

/-- The entry of a small page (R173). DESIGN CHOICE, log entry 41: bits 9 and 3:2 of level one are not looked at. -/
def smallEntry (l1 l2 va : Word) : TlbEntry :=
  ⟨.small (field va 12 20) (field l2 12 20) (field l2 4 8), field l1 5 4, pageC l2, pageB l2, wbit l1 4⟩

/-- The table walk (R164 to R174): one or two physical word reads, and an entry or a fault. DESIGN CHOICE, log entry 41:
a page table descriptor with bit 9, 3 or 2 set is taken as one with these bits 0. -/
def State.tableWalk (s : State) (va : Word) : Access TlbEntry :=
  (s.busRead (s.levelOneAddr va) .walk1).andThen fun l1 s1 =>
    match (field l1 0 2).toNat with
    | 1 =>
      (s1.busRead (levelTwoAddr l1 va) (.walk2 (field l1 5 4))).andThen fun l2 s2 =>
        match (field l2 0 2).toNat with
        | 1 => .done (largeEntry l1 l2 va) s2
        | 2 => .done (smallEntry l1 l2 va) s2
        | _ => .abort (.translation true (field l1 5 4)) s2
    | 2 => .done (sectionEntry l1 va) s1
    | _ => .abort (.translation false (field l1 5 4)) s1

/-- Places an entry in the TLB; the victim is chosen cyclically (R162, R172). -/
def State.tlbFill (s : State) (e : TlbEntry) : State :=
  { s with tlb := s.tlb.set s.tlbNext (some e), tlbNext := s.tlbNext + 1 }

/-- The entry for `va`, from the TLB or from a walk; filled before the checks (R161, R172; log entry 21). -/
def State.entryFor (s : State) (va : Word) : Access TlbEntry :=
  match s.tlbHits va with
  | [] => (s.tableWalk va).andThen fun e s' => .done e (s'.tlbFill e)
  | [e] => .done e s
  | e :: rest => .done (s.tlbChoose e rest) s.bump

/-- The two DACR bits of a domain (R188). -/
def State.domainAccess (s : State) (d : BitVec 4) : BitVec 2 := s.dacr.extractLsb' (2 * d.toNat) 2

/-- The domain and permission checks; none where the access is allowed (R161, R188 to R192). -/
def State.checkAccess (s : State) (e : TlbEntry) (va : Word) (write : Bool) : Option MemFault :=
  match (s.domainAccess e.domain).toNat with
  | 1 =>
    if permitted (e.apFor va) s.control.s s.privileged write then none else some (.permission e.isPage e.domain)
  | 3 => none
  | _ => some (.domain e.isPage e.domain)

/-- A translated address and the attributes of the access. -/
structure Translated where
  pa : Word
  attr : Attr
  deriving DecidableEq, Repr

/-- `Translate(va, rw, privileged)` (R161), made with the privilege of the current mode. -/
def State.translate (s : State) (va : Word) (write : Bool) : Access Translated :=
  if s.control.m then
    (s.entryFor va).andThen fun e s' =>
      match s'.checkAccess e va write with
      | some f => .abort f s'
      | none => .done ⟨e.physical va, ⟨e.c, e.b, e.u, some (e.isPage, e.domain)⟩⟩ s'
  else .done ⟨va, Attr.flat⟩ s

/-- Marks every TLB entry invalid (R492). -/
def State.tlbFlush (s : State) : State := { s with tlb := Vector.replicate 32 none }

/-- Marks every TLB entry that covers `va` invalid (R493, R176). -/
def State.tlbPurge (s : State) (va : Word) : State :=
  { s with tlb := s.tlb.map fun o => o.filter fun e => !e.covers va }

end Sys2Proof.Machine
end

