-- ==== Sys2Proof/Machine/Access.lean ====
section
/-! DEFINITION. The cache and the two access primitives `MemRead` and `MemWrite` (spec/20_memory.md R110, R111,
R130 to R139); the data abort (spec/60_exceptions.md R525). -/

namespace Sys2Proof.Machine

open Sys2Proof

/-! ### The IDC -/

/-- The virtual tag of an address, bits 31:4 (R72). -/
def lineTag (va : Word) : BitVec 28 := field va 4 28

/-- Which word of its line an address lies in. -/
def lineIndex (va : Word) : Fin 4 := (field va 2 2).toFin

/-- The valid line that holds `va` (R131). -/
def State.idcFind (s : State) (va : Word) : Option IdcLine :=
  s.idc.toList.findSome? fun o => o.filter fun l => l.tag == lineTag va

/-- Marks every line invalid (R136, R494). -/
def State.idcFlush (s : State) : State := { s with idc := Vector.replicate 256 none }

/-- The four words of a line, read from its base up; the reads go on to the end, aborted or not (R202). -/
def State.lineTransfers (s : State) (base : Word) : Access (Vector BusWord 4) :=
  (s.readTransfer base).andThen fun r0 s0 =>
    (s0.readTransfer (base + 4#32)).andThen fun r1 s1 =>
      (s1.readTransfer (base + 8#32)).andThen fun r2 s2 =>
        (s2.readTransfer (base + 12#32)).andThen fun r3 s3 => .done #v[r0, r1, r2, r3] s3

/-- A line placed in the cache; the victim is free (R72, R131; log entries 18 and 40). -/
def State.idcFill (s : State) (l : IdcLine) : State :=
  { s with
    idc := s.idc.set (Fin.ofNat 256 (Config.free .idcVictim s.draws).toNat) (some l)
    draws := s.draws + 1 }

/-- A linefetch: four words from the 16-byte aligned block (R131). An abort on word 0 leaves the cache alone; one on a
later word is refused (R202; log entry 20). -/
def State.linefetch (s : State) (va : Word) (t : Translated) : Access Word :=
  s.drainAll.andThen fun _ s1 =>
    (s1.lineTransfers (t.pa >>> 4 <<< 4)).andThen fun r s2 =>
      if r[0].aborted then .abort t.attr.linefetchFault s2
      else if r[1].aborted || r[2].aborted || r[3].aborted then .halt (.refused .linefetchAborted)
      else .done r[lineIndex va].word (s2.idcFill ⟨lineTag va, r.map BusWord.word⟩)

/-- A cacheable read: the cached word, or a linefetch (R131). -/
def State.cachedRead (s : State) (va : Word) (t : Translated) : Access Word :=
  match s.idcFind va with
  | some l => .done l.data[lineIndex va] s
  | none => s.linefetch va t

/-- The cached copy of the written word, if any, is updated (R133). -/
def State.idcUpdate (s : State) (va : Word) (w : BusWrite) : State :=
  match s.idcFind va with
  | none => s
  | some _ =>
    { s with idc := s.idc.map fun o => o.map fun l =>
        if l.tag = lineTag va then { l with data := l.data.set (lineIndex va) (w.onWord l.data[lineIndex va]) } else l }

/-- What a write does to the cache: an updateable write updates it, a non-updateable one does not (R133, R134); with
the MMU off the update of a line still held is free (R112; log entry 37). -/
def State.cacheWrite (s : State) (va : Word) (a : Attr) (w : BusWrite) : State :=
  match a.entry with
  | some _ => if a.u then s.idcUpdate va w else s
  | none =>
    match s.idcFind va with
    | none => s
    | some _ => if wbit (Config.free .flatUpdate s.draws) 0 then (s.idcUpdate va w).bump else s.bump

/-! ### MemRead and MemWrite -/

/-- The kinds of read (R110). -/
inductive ReadKind where
  | fetch | data | swap
  deriving DecidableEq, Repr

/-- Steps 2 and 3 of `MemRead`: the bus word that holds `va` (R110, R132, R138). -/
def State.readBusWord (s : State) (va : Word) (kind : ReadKind) : Access Word :=
  (s.translate va false).andThen fun t s' =>
    if s'.control.c && t.attr.c && kind != .swap then s'.cachedRead va t else s'.busRead t.pa t.attr.externalFault

/-- Whether a data word access to `va` takes the alignment fault (R120). -/
def State.misaligned (s : State) (va : Word) : Bool := s.control.a && laneBits va != 0#2

/-- `MemRead(va, 4, kind)` for data and swap reads (R110); the rotation of R106 is the instruction's. -/
def State.readWord (s : State) (va : Word) (kind : ReadKind) : Access Word :=
  if s.misaligned va then .abort .alignment s else s.readBusWord va kind

/-- `MemRead(va, 1, kind)` (R104, R110). -/
def State.readByte (s : State) (va : Word) (kind : ReadKind) : Access Byte :=
  (s.readBusWord va kind).andThen fun w s' => .done (getLane w (laneOf s'.control.b (laneBits va))) s'

/-- `MemWrite` (R111); the write of SWP is never buffered and made under LOCK, `seq` says that a block transfer goes
on. -/
def State.memWrite (s : State) (va : Word) (w : BusWrite) (swap seq : Bool) : Access Unit :=
  if w.isWord && s.misaligned va then .abort .alignment s
  else
    (s.translate va true).andThen fun t s' =>
      let s'' := s'.cacheWrite va t.attr w
      if s''.control.w && t.attr.b && !swap then s''.bufferWrite t.pa w seq
      else s''.busWrite t.pa w swap t.attr.externalFault

/-- A byte store at `va` as its bus write: the lane is chosen by the byte-order bit (R105). -/
def State.byteWrite (s : State) (va : Word) (v : Word) : BusWrite :=
  .lane (laneOf s.control.b (laneBits va)) (field v 0 8)

/-- The rotation of a word load from an address that is not word-aligned (R106). -/
def rotateLoaded (w va : Word) : Word := w.rotateRight (8 * (laneBits va).toNat)

/-! ### Data aborts -/

/-- FSR and FAR describe the aborting access (R201). -/
def State.recordFault (s : State) (f : MemFault) (va : Word) : State :=
  { s with fsr := f.fsr (Config.free .fsrUndefined s.draws), far := va, draws := s.draws + 1 }

/-- `DataAbort`: FSR and FAR are written, then the entry (R525). -/
def State.dataAbort (s : State) (f : MemFault) (va : Word) : State := (s.recordFault f va).enterDataAbort

end Sys2Proof.Machine
end

