-- ==== Sys2Proof/Machine/DataProcessing.lean ====
section
/-! DEFINITION. The sixteen data-processing instructions in their three operand forms (spec/41_data_processing.md). -/

namespace Sys2Proof.Machine

open Sys2Proof

/-! ### The common part -/

/-- The wrapper of every instruction: where the condition fails, the next instruction is at `pc + 4` (R280). -/
def whenPassed (c : Cond) (s : State) (k : Result) : Result := if condPassed c s.cpsr then k else .next s.advance

/-- An operand choice the spec forbids without an outcome is refused before anything else (spec/93 section 2). -/
def unlessRefused (r : Option Refusal) (k : Result) : Result :=
  match r with
  | some r => .refused r
  | none => k

/-- The refusal of R15 in a place where it shall not be. -/
def pcRefusal (named : Bool) : Option Refusal := if named then some .pcOperand else none

/-- The end of the twelve operations that write a result: R302, R303; with Rd = R15, R318 (S clear) or the return of
R319 (S set). -/
def State.dpWrite (s : State) (sBit : Bool) (rd : RegNum) (result : Word) (flags : Cpsr) : Result :=
  if rd = 15#4 then
    if sBit then s.returnTo result else .next (s.branchTo result)
  else .next { s.setReg rd result with cpsr := if sBit then flags else s.cpsr }.advance

/-- The end of TST, TEQ, CMP and CMN: the flags, or with Rd = 15 the TEQP-class form, which copies the SPSR in a
privileged mode and does nothing in User mode (R336; log entry 28). -/
def State.dpTest (s : State) (rd : RegNum) (flags : Cpsr) : Result :=
  if rd = 15#4 then
    if s.privileged then s.advance.restoreCpsr else .next s.advance
  else .next { s with cpsr := flags }.advance

/-- The end of a logical operation (R303). -/
def State.dpLogical (s : State) (sBit : Bool) (rd : RegNum) (result : Word) (shc : Bool) : Result :=
  s.dpWrite sBit rd result (s.cpsr.logical result shc)

/-- The end of an arithmetic operation (R303). -/
def State.dpArithmetic (s : State) (sBit : Bool) (rd : RegNum) (o : AluOut) : Result :=
  s.dpWrite sBit rd o.result (s.cpsr.arithmetic o)

/-! ### AND -/

/-- AND with a rotated immediate (R320): AND. -/
def execAndImm (a : DpImm) (s : State) : Result :=
  whenPassed a.cond s <|
    let b := operandImm a.rotate a.imm s.cpsr.c
    s.dpLogical a.s a.rd (s.readReg .rn a.rn 8#32 &&& b.value) b.carry

/-- AND with a register shifted by an amount in the instruction (R320): AND. -/
def execAndShift (a : DpShift) (s : State) : Result :=
  whenPassed a.cond s <|
    let b := s.operandShift a.rm a.type a.amount
    s.dpLogical a.s a.rd (s.readReg .rn a.rn 8#32 &&& b.value) b.carry

/-- AND with a register shifted by a register (R320): AND. -/
def execAndRegShift (a : DpRegShift) (s : State) : Result :=
  whenPassed a.cond s <| unlessRefused (pcRefusal (a.rs == 15#4)) <|
    let b := s.operandRegShift a.rm a.type a.rs
    s.dpLogical a.s a.rd (s.readReg .rn a.rn 12#32 &&& b.value) b.carry

/-! ### EOR -/

/-- EOR with a rotated immediate (R321): EOR. -/
def execEorImm (a : DpImm) (s : State) : Result :=
  whenPassed a.cond s <|
    let b := operandImm a.rotate a.imm s.cpsr.c
    s.dpLogical a.s a.rd (s.readReg .rn a.rn 8#32 ^^^ b.value) b.carry

/-- EOR with a register shifted by an amount in the instruction (R321): EOR. -/
def execEorShift (a : DpShift) (s : State) : Result :=
  whenPassed a.cond s <|
    let b := s.operandShift a.rm a.type a.amount
    s.dpLogical a.s a.rd (s.readReg .rn a.rn 8#32 ^^^ b.value) b.carry

/-- EOR with a register shifted by a register (R321): EOR. -/
def execEorRegShift (a : DpRegShift) (s : State) : Result :=
  whenPassed a.cond s <| unlessRefused (pcRefusal (a.rs == 15#4)) <|
    let b := s.operandRegShift a.rm a.type a.rs
    s.dpLogical a.s a.rd (s.readReg .rn a.rn 12#32 ^^^ b.value) b.carry

/-! ### SUB -/

/-- SUB with a rotated immediate (R322): operand 1 - operand 2. -/
def execSubImm (a : DpImm) (s : State) : Result :=
  whenPassed a.cond s <|
    let b := operandImm a.rotate a.imm s.cpsr.c
    s.dpArithmetic a.s a.rd (addWithCarry (s.readReg .rn a.rn 8#32) (~~~b.value) true)

/-- SUB with a register shifted by an amount in the instruction (R322): operand 1 - operand 2. -/
def execSubShift (a : DpShift) (s : State) : Result :=
  whenPassed a.cond s <|
    let b := s.operandShift a.rm a.type a.amount
    s.dpArithmetic a.s a.rd (addWithCarry (s.readReg .rn a.rn 8#32) (~~~b.value) true)

/-- SUB with a register shifted by a register (R322): operand 1 - operand 2. -/
def execSubRegShift (a : DpRegShift) (s : State) : Result :=
  whenPassed a.cond s <| unlessRefused (pcRefusal (a.rs == 15#4)) <|
    let b := s.operandRegShift a.rm a.type a.rs
    s.dpArithmetic a.s a.rd (addWithCarry (s.readReg .rn a.rn 12#32) (~~~b.value) true)

/-! ### RSB -/

/-- RSB with a rotated immediate (R323): operand 2 - operand 1. -/
def execRsbImm (a : DpImm) (s : State) : Result :=
  whenPassed a.cond s <|
    let b := operandImm a.rotate a.imm s.cpsr.c
    s.dpArithmetic a.s a.rd (addWithCarry b.value (~~~(s.readReg .rn a.rn 8#32)) true)

/-- RSB with a register shifted by an amount in the instruction (R323): operand 2 - operand 1. -/
def execRsbShift (a : DpShift) (s : State) : Result :=
  whenPassed a.cond s <|
    let b := s.operandShift a.rm a.type a.amount
    s.dpArithmetic a.s a.rd (addWithCarry b.value (~~~(s.readReg .rn a.rn 8#32)) true)

/-- RSB with a register shifted by a register (R323): operand 2 - operand 1. -/
def execRsbRegShift (a : DpRegShift) (s : State) : Result :=
  whenPassed a.cond s <| unlessRefused (pcRefusal (a.rs == 15#4)) <|
    let b := s.operandRegShift a.rm a.type a.rs
    s.dpArithmetic a.s a.rd (addWithCarry b.value (~~~(s.readReg .rn a.rn 12#32)) true)

/-! ### ADD -/

/-- ADD with a rotated immediate (R324): operand 1 + operand 2. -/
def execAddImm (a : DpImm) (s : State) : Result :=
  whenPassed a.cond s <|
    let b := operandImm a.rotate a.imm s.cpsr.c
    s.dpArithmetic a.s a.rd (addWithCarry (s.readReg .rn a.rn 8#32) b.value false)

/-- ADD with a register shifted by an amount in the instruction (R324): operand 1 + operand 2. -/
def execAddShift (a : DpShift) (s : State) : Result :=
  whenPassed a.cond s <|
    let b := s.operandShift a.rm a.type a.amount
    s.dpArithmetic a.s a.rd (addWithCarry (s.readReg .rn a.rn 8#32) b.value false)

/-- ADD with a register shifted by a register (R324): operand 1 + operand 2. -/
def execAddRegShift (a : DpRegShift) (s : State) : Result :=
  whenPassed a.cond s <| unlessRefused (pcRefusal (a.rs == 15#4)) <|
    let b := s.operandRegShift a.rm a.type a.rs
    s.dpArithmetic a.s a.rd (addWithCarry (s.readReg .rn a.rn 12#32) b.value false)

/-! ### ADC -/

/-- ADC with a rotated immediate (R325): operand 1 + operand 2 + C. -/
def execAdcImm (a : DpImm) (s : State) : Result :=
  whenPassed a.cond s <|
    let b := operandImm a.rotate a.imm s.cpsr.c
    s.dpArithmetic a.s a.rd (addWithCarry (s.readReg .rn a.rn 8#32) b.value s.cpsr.c)

/-- ADC with a register shifted by an amount in the instruction (R325): operand 1 + operand 2 + C. -/
def execAdcShift (a : DpShift) (s : State) : Result :=
  whenPassed a.cond s <|
    let b := s.operandShift a.rm a.type a.amount
    s.dpArithmetic a.s a.rd (addWithCarry (s.readReg .rn a.rn 8#32) b.value s.cpsr.c)

/-- ADC with a register shifted by a register (R325): operand 1 + operand 2 + C. -/
def execAdcRegShift (a : DpRegShift) (s : State) : Result :=
  whenPassed a.cond s <| unlessRefused (pcRefusal (a.rs == 15#4)) <|
    let b := s.operandRegShift a.rm a.type a.rs
    s.dpArithmetic a.s a.rd (addWithCarry (s.readReg .rn a.rn 12#32) b.value s.cpsr.c)

/-! ### SBC -/

/-- SBC with a rotated immediate (R326): operand 1 - operand 2 + C - 1. -/
def execSbcImm (a : DpImm) (s : State) : Result :=
  whenPassed a.cond s <|
    let b := operandImm a.rotate a.imm s.cpsr.c
    s.dpArithmetic a.s a.rd (addWithCarry (s.readReg .rn a.rn 8#32) (~~~b.value) s.cpsr.c)

/-- SBC with a register shifted by an amount in the instruction (R326): operand 1 - operand 2 + C - 1. -/
def execSbcShift (a : DpShift) (s : State) : Result :=
  whenPassed a.cond s <|
    let b := s.operandShift a.rm a.type a.amount
    s.dpArithmetic a.s a.rd (addWithCarry (s.readReg .rn a.rn 8#32) (~~~b.value) s.cpsr.c)

/-- SBC with a register shifted by a register (R326): operand 1 - operand 2 + C - 1. -/
def execSbcRegShift (a : DpRegShift) (s : State) : Result :=
  whenPassed a.cond s <| unlessRefused (pcRefusal (a.rs == 15#4)) <|
    let b := s.operandRegShift a.rm a.type a.rs
    s.dpArithmetic a.s a.rd (addWithCarry (s.readReg .rn a.rn 12#32) (~~~b.value) s.cpsr.c)

/-! ### RSC -/

/-- RSC with a rotated immediate (R327): operand 2 - operand 1 + C - 1. -/
def execRscImm (a : DpImm) (s : State) : Result :=
  whenPassed a.cond s <|
    let b := operandImm a.rotate a.imm s.cpsr.c
    s.dpArithmetic a.s a.rd (addWithCarry b.value (~~~(s.readReg .rn a.rn 8#32)) s.cpsr.c)

/-- RSC with a register shifted by an amount in the instruction (R327): operand 2 - operand 1 + C - 1. -/
def execRscShift (a : DpShift) (s : State) : Result :=
  whenPassed a.cond s <|
    let b := s.operandShift a.rm a.type a.amount
    s.dpArithmetic a.s a.rd (addWithCarry b.value (~~~(s.readReg .rn a.rn 8#32)) s.cpsr.c)

/-- RSC with a register shifted by a register (R327): operand 2 - operand 1 + C - 1. -/
def execRscRegShift (a : DpRegShift) (s : State) : Result :=
  whenPassed a.cond s <| unlessRefused (pcRefusal (a.rs == 15#4)) <|
    let b := s.operandRegShift a.rm a.type a.rs
    s.dpArithmetic a.s a.rd (addWithCarry b.value (~~~(s.readReg .rn a.rn 12#32)) s.cpsr.c)

/-! ### TST -/

/-- TST with a rotated immediate (R328): as AND, the result is not written. -/
def execTstImm (a : TestImm) (s : State) : Result :=
  whenPassed a.cond s <|
    let b := operandImm a.rotate a.imm s.cpsr.c
    s.dpTest a.rd (s.cpsr.logical (s.readReg .rn a.rn 8#32 &&& b.value) b.carry)

/-- TST with a register shifted by an amount in the instruction (R328): as AND, the result is not written. -/
def execTstShift (a : TestShift) (s : State) : Result :=
  whenPassed a.cond s <|
    let b := s.operandShift a.rm a.type a.amount
    s.dpTest a.rd (s.cpsr.logical (s.readReg .rn a.rn 8#32 &&& b.value) b.carry)

/-- TST with a register shifted by a register (R328): as AND, the result is not written. -/
def execTstRegShift (a : TestRegShift) (s : State) : Result :=
  whenPassed a.cond s <| unlessRefused (pcRefusal (a.rs == 15#4)) <|
    let b := s.operandRegShift a.rm a.type a.rs
    s.dpTest a.rd (s.cpsr.logical (s.readReg .rn a.rn 12#32 &&& b.value) b.carry)

/-! ### TEQ -/

/-- TEQ with a rotated immediate (R329): as EOR, the result is not written. -/
def execTeqImm (a : TestImm) (s : State) : Result :=
  whenPassed a.cond s <|
    let b := operandImm a.rotate a.imm s.cpsr.c
    s.dpTest a.rd (s.cpsr.logical (s.readReg .rn a.rn 8#32 ^^^ b.value) b.carry)

/-- TEQ with a register shifted by an amount in the instruction (R329): as EOR, the result is not written. -/
def execTeqShift (a : TestShift) (s : State) : Result :=
  whenPassed a.cond s <|
    let b := s.operandShift a.rm a.type a.amount
    s.dpTest a.rd (s.cpsr.logical (s.readReg .rn a.rn 8#32 ^^^ b.value) b.carry)

/-- TEQ with a register shifted by a register (R329): as EOR, the result is not written. -/
def execTeqRegShift (a : TestRegShift) (s : State) : Result :=
  whenPassed a.cond s <| unlessRefused (pcRefusal (a.rs == 15#4)) <|
    let b := s.operandRegShift a.rm a.type a.rs
    s.dpTest a.rd (s.cpsr.logical (s.readReg .rn a.rn 12#32 ^^^ b.value) b.carry)

/-! ### CMP -/

/-- CMP with a rotated immediate (R330): as SUB, the result is not written. -/
def execCmpImm (a : TestImm) (s : State) : Result :=
  whenPassed a.cond s <|
    let b := operandImm a.rotate a.imm s.cpsr.c
    s.dpTest a.rd (s.cpsr.arithmetic (addWithCarry (s.readReg .rn a.rn 8#32) (~~~b.value) true))

/-- CMP with a register shifted by an amount in the instruction (R330): as SUB, the result is not written. -/
def execCmpShift (a : TestShift) (s : State) : Result :=
  whenPassed a.cond s <|
    let b := s.operandShift a.rm a.type a.amount
    s.dpTest a.rd (s.cpsr.arithmetic (addWithCarry (s.readReg .rn a.rn 8#32) (~~~b.value) true))

/-- CMP with a register shifted by a register (R330): as SUB, the result is not written. -/
def execCmpRegShift (a : TestRegShift) (s : State) : Result :=
  whenPassed a.cond s <| unlessRefused (pcRefusal (a.rs == 15#4)) <|
    let b := s.operandRegShift a.rm a.type a.rs
    s.dpTest a.rd (s.cpsr.arithmetic (addWithCarry (s.readReg .rn a.rn 12#32) (~~~b.value) true))

/-! ### CMN -/

/-- CMN with a rotated immediate (R331): as ADD, the result is not written. -/
def execCmnImm (a : TestImm) (s : State) : Result :=
  whenPassed a.cond s <|
    let b := operandImm a.rotate a.imm s.cpsr.c
    s.dpTest a.rd (s.cpsr.arithmetic (addWithCarry (s.readReg .rn a.rn 8#32) b.value false))

/-- CMN with a register shifted by an amount in the instruction (R331): as ADD, the result is not written. -/
def execCmnShift (a : TestShift) (s : State) : Result :=
  whenPassed a.cond s <|
    let b := s.operandShift a.rm a.type a.amount
    s.dpTest a.rd (s.cpsr.arithmetic (addWithCarry (s.readReg .rn a.rn 8#32) b.value false))

/-- CMN with a register shifted by a register (R331): as ADD, the result is not written. -/
def execCmnRegShift (a : TestRegShift) (s : State) : Result :=
  whenPassed a.cond s <| unlessRefused (pcRefusal (a.rs == 15#4)) <|
    let b := s.operandRegShift a.rm a.type a.rs
    s.dpTest a.rd (s.cpsr.arithmetic (addWithCarry (s.readReg .rn a.rn 12#32) b.value false))

/-! ### ORR -/

/-- ORR with a rotated immediate (R332): OR. -/
def execOrrImm (a : DpImm) (s : State) : Result :=
  whenPassed a.cond s <|
    let b := operandImm a.rotate a.imm s.cpsr.c
    s.dpLogical a.s a.rd (s.readReg .rn a.rn 8#32 ||| b.value) b.carry

/-- ORR with a register shifted by an amount in the instruction (R332): OR. -/
def execOrrShift (a : DpShift) (s : State) : Result :=
  whenPassed a.cond s <|
    let b := s.operandShift a.rm a.type a.amount
    s.dpLogical a.s a.rd (s.readReg .rn a.rn 8#32 ||| b.value) b.carry

/-- ORR with a register shifted by a register (R332): OR. -/
def execOrrRegShift (a : DpRegShift) (s : State) : Result :=
  whenPassed a.cond s <| unlessRefused (pcRefusal (a.rs == 15#4)) <|
    let b := s.operandRegShift a.rm a.type a.rs
    s.dpLogical a.s a.rd (s.readReg .rn a.rn 12#32 ||| b.value) b.carry

/-! ### MOV -/

/-- MOV with a rotated immediate (R333): the second operand. -/
def execMovImm (a : DpImm) (s : State) : Result :=
  whenPassed a.cond s <|
    let b := operandImm a.rotate a.imm s.cpsr.c
    s.dpLogical a.s a.rd b.value b.carry

/-- MOV with a register shifted by an amount in the instruction (R333): the second operand. -/
def execMovShift (a : DpShift) (s : State) : Result :=
  whenPassed a.cond s <|
    let b := s.operandShift a.rm a.type a.amount
    s.dpLogical a.s a.rd b.value b.carry

/-- MOV with a register shifted by a register (R333): the second operand. -/
def execMovRegShift (a : DpRegShift) (s : State) : Result :=
  whenPassed a.cond s <| unlessRefused (pcRefusal (a.rs == 15#4)) <|
    let b := s.operandRegShift a.rm a.type a.rs
    s.dpLogical a.s a.rd b.value b.carry

/-! ### BIC -/

/-- BIC with a rotated immediate (R334): AND NOT. -/
def execBicImm (a : DpImm) (s : State) : Result :=
  whenPassed a.cond s <|
    let b := operandImm a.rotate a.imm s.cpsr.c
    s.dpLogical a.s a.rd (s.readReg .rn a.rn 8#32 &&& ~~~b.value) b.carry

/-- BIC with a register shifted by an amount in the instruction (R334): AND NOT. -/
def execBicShift (a : DpShift) (s : State) : Result :=
  whenPassed a.cond s <|
    let b := s.operandShift a.rm a.type a.amount
    s.dpLogical a.s a.rd (s.readReg .rn a.rn 8#32 &&& ~~~b.value) b.carry

/-- BIC with a register shifted by a register (R334): AND NOT. -/
def execBicRegShift (a : DpRegShift) (s : State) : Result :=
  whenPassed a.cond s <| unlessRefused (pcRefusal (a.rs == 15#4)) <|
    let b := s.operandRegShift a.rm a.type a.rs
    s.dpLogical a.s a.rd (s.readReg .rn a.rn 12#32 &&& ~~~b.value) b.carry

/-! ### MVN -/

/-- MVN with a rotated immediate (R335): NOT the second operand. -/
def execMvnImm (a : DpImm) (s : State) : Result :=
  whenPassed a.cond s <|
    let b := operandImm a.rotate a.imm s.cpsr.c
    s.dpLogical a.s a.rd (~~~b.value) b.carry

/-- MVN with a register shifted by an amount in the instruction (R335): NOT the second operand. -/
def execMvnShift (a : DpShift) (s : State) : Result :=
  whenPassed a.cond s <|
    let b := s.operandShift a.rm a.type a.amount
    s.dpLogical a.s a.rd (~~~b.value) b.carry

/-- MVN with a register shifted by a register (R335): NOT the second operand. -/
def execMvnRegShift (a : DpRegShift) (s : State) : Result :=
  whenPassed a.cond s <| unlessRefused (pcRefusal (a.rs == 15#4)) <|
    let b := s.operandRegShift a.rm a.type a.rs
    s.dpLogical a.s a.rd (~~~b.value) b.carry

end Sys2Proof.Machine
end

