-- ==== Sys2Proof/Machine/BlockTransfer.lean ====
section
/-! DEFINITION. LDM and STM (spec/45_block_data_transfer.md). -/

namespace Sys2Proof.Machine

open Sys2Proof

/-- What a run of transfers leaves: the word for R15 (LDM), the first aborting access, the state; or the outcome
of an access that ends the instruction. -/
inductive BlockOut where
  | done (newPc : Word) (first : Option (MemFault × Word)) (s : State)
  | halt (r : Result)

/-- Whether the list is transferred to or from the User bank: STM with S; LDM with S and without R15 (R421, R422). -/
def bdtUserBank (a : Bdt) (load : Bool) : Bool := a.s && !(load && a.list.getLsbD 15)

/-- The restrictions on LDM and STM (R412, R417, R420 to R422, R426; log entry 28). -/
def bdtRefusal (a : Bdt) (load privileged : Bool) : Option Refusal :=
  if a.rn = 15#4 then some .pcOperand
  else if a.list = 0#16 then some .emptyList
  else if bdtUserBank a load && a.w then some .userBankWriteBack
  else if load && a.s && a.list.getLsbD 15 && !privileged then some .spsrInUser
  else none

/-- The loads in ascending order; after the first abort each load is still made and discarded (R415, R424, R425; log
entry 27). -/
def ldmTransfers (user : Bool) :
    List RegNum → Word → Word → Option (MemFault × Word) → State → BlockOut
  | [], _, newPc, first, s => .done newPc first s
  | r :: rest, addr, newPc, first, s =>
    match s.readWord addr .data with
    | .done w s' =>
      match first with
      | some f => ldmTransfers user rest (addr + 4#32) newPc (some f) s'
      | none =>
        if r = 15#4 then ldmTransfers user rest (addr + 4#32) w none s'
        else
          ldmTransfers user rest (addr + 4#32) newPc none
            (s'.setRegIn (if user then .usr else s'.cpsr.mode) r w)
    | .abort f s' => ldmTransfers user rest (addr + 4#32) newPc (some (first.getD (f, addr))) s'
    | .halt r => .halt r

/-- Write-back to the base, where there is one. -/
def State.blockWriteBack (s : State) (wb : Option (RegNum × Word)) : State :=
  match wb with
  | some (rn, final) => s.setReg rn final
  | none => s

/-- The stores in ascending order; the base is written back after the first of them, and every store is attempted
(R416, R418, R425; log entry 27). -/
def stmTransfers (user : Bool) :
    Option (RegNum × Word) → List RegNum → Word → Bool → Option (MemFault × Word) → State → BlockOut
  | _, [], _, _, first, s => .done 0#32 first s
  | wb, r :: rest, addr, seq, first, s =>
    let v := if user then s.readUserReg r 12#32 else s.readReg .listed r 12#32
    match s.memWrite addr (.word v) false seq with
    | .done _ s' => stmTransfers user none rest (addr + 4#32) true first (s'.blockWriteBack wb)
    | .abort f s' =>
      stmTransfers user none rest (addr + 4#32) true (some (first.getD (f, addr))) (s'.blockWriteBack wb)
    | .halt r => .halt r

/-- After a User-bank LDM in a privileged mode the next instruction must not read a banked register (R590; log entry
23). -/
def State.startHazard (s : State) (user : Bool) : State := if user && s.privileged then { s with hazard := 2 } else s

/-- The start address and the final base of a block transfer (R411). -/
def State.bdtSpan (s : State) (a : Bdt) : Word × Word :=
  bdtAddresses a.p a.u (s.readReg .base a.rn 8#32) (regList a.list).length

/-- LDM (R415, R420, R422, R424). -/
def execLdm (a : Bdt) (s : State) : Result :=
  whenPassed a.cond s <| unlessRefused (bdtRefusal a true s.privileged) <|
    let span := s.bdtSpan a
    let user := bdtUserBank a true
    let s0 := if a.w then s.setReg a.rn span.2 else s
    match ldmTransfers user (regList a.list) span.1 0#32 none s0 with
    | .halt r => r
    | .done _ (some (f, va)) s' =>
      .next (((s'.setReg a.rn (if a.w then span.2 else s.regIn s.cpsr.mode a.rn)).startHazard user).dataAbort f va)
    | .done newPc none s' =>
      if a.list.getLsbD 15 then
        if a.s then s'.returnTo newPc else .next (s'.branchTo newPc)
      else .next (s'.startHazard user).advance

/-- STM (R416, R418, R421, R423). -/
def execStm (a : Bdt) (s : State) : Result :=
  whenPassed a.cond s <| unlessRefused (bdtRefusal a false s.privileged) <|
    let span := s.bdtSpan a
    let wb := if a.w then some (a.rn, span.2) else none
    match stmTransfers (bdtUserBank a false) wb (regList a.list) span.1 false none s with
    | .halt r => r
    | .done _ (some (f, va)) s' => .next (s'.dataAbort f va)
    | .done _ none s' => .next s'.advance

end Sys2Proof.Machine
end

