-- ==== Sys2Proof/Machine/Branch.lean ====
section
/-! DEFINITION. B and BL (spec/40_branch.md), SWI and the undefined instruction (spec/47_swi_undefined.md). -/

namespace Sys2Proof.Machine

open Sys2Proof

/-- `(pc + 8 + sext_26(offset24 : 00)) mod 2^32` (R283). -/
def branchTarget (pc : Word) (offset : BitVec 24) : Word := pc + 8#32 + (offset.signExtend 32 <<< 2)

/-- B (R283). -/
def execB (a : BranchArgs) (s : State) : Result :=
  whenPassed a.cond s <| .next (s.branchTo (branchTarget s.pc a.offset))

/-- BL: R14 of the current bank receives `pc + 4` (R284). -/
def execBl (a : BranchArgs) (s : State) : Result :=
  whenPassed a.cond s <| .next ((s.setReg 14#4 (s.pc + 4#32)).branchTo (branchTarget s.pc a.offset))

/-- SWI: the comment field is ignored (R451). -/
def execSwi (a : SwiArgs) (s : State) : Result := whenPassed a.cond s <| .next s.enterSwi

/-- The undefined instruction: the coprocessors refuse it and the trap is taken (R455). -/
def execUndefined (a : UndefArgs) (s : State) : Result := whenPassed a.cond s <| .next s.enterUndefined

end Sys2Proof.Machine
end

