-- ==== Sys2Proof/Machine/SingleTransfer.lean ====
section
/-! DEFINITION. LDR, LDRB, STR and STRB in both offset forms (spec/44_single_data_transfer.md). -/

namespace Sys2Proof.Machine

open Sys2Proof

/-- The restrictions on every single data transfer (R389, R391; log entry 26). -/
def sdtRefusal (p w : Bool) (rn : RegNum) : Option Refusal :=
  if rn = 15#4 && (!p || w) then some .pcWriteBack else if !p && w then some .postIndexedW else none

/-- The restrictions with a register offset (R389). -/
def sdtRegRefusal (p w : Bool) (rn rm : RegNum) : Option Refusal :=
  if rm = 15#4 then some .pcOperand
  else if rn = 15#4 && (!p || w) then some .pcWriteBack
  else if !p && rm == rn then some .postIndexSameRegister
  else sdtRefusal p w rn

/-- Write-back of the moved base (R383, R465). -/
def State.writeBack (s : State) (rn : RegNum) (t : TransferAddr) : State :=
  if t.wb then s.setReg rn t.moved else s

/-- The base after an aborted transfer: written back only in the late abort configuration (R392). -/
def State.abortedBase (s : State) (rn : RegNum) (t : TransferAddr) : State :=
  if s.control.l then s.writeBack rn t else s

/-- A word load: rotated, written after the base; Rd = R15 is a jump (R384, R390). -/
def State.loadWord (s : State) (rn rd : RegNum) (t : TransferAddr) : Result :=
  match s.readWord t.addr .data with
  | .done w s' => .next ((s'.writeBack rn t).writeRd rd (rotateLoaded w t.addr))
  | .abort f s' => .next ((s'.abortedBase rn t).dataAbort f t.addr)
  | .halt r => r

/-- A byte load, zero-extended (R385, R393). -/
def State.loadByte (s : State) (rn rd : RegNum) (t : TransferAddr) : Result :=
  match s.readByte t.addr .data with
  | .done b s' => .next ((s'.writeBack rn t).writeRd rd (b.setWidth 32))
  | .abort f s' => .next ((s'.abortedBase rn t).dataAbort f t.addr)
  | .halt r => r

/-- A store of a bus write, the stored value read before any write-back (R386, R387, R390). -/
def State.storeBus (s : State) (rn : RegNum) (t : TransferAddr) (w : BusWrite) : Result :=
  match s.memWrite t.addr w false false with
  | .done _ s' => .next (s'.writeBack rn t).advance
  | .abort f s' => .next ((s'.abortedBase rn t).dataAbort f t.addr)
  | .halt r => r

/-- LDR with an immediate offset (R384). -/
def execLdrImm (a : SdtImm) (s : State) : Result :=
  whenPassed a.cond s <| unlessRefused (sdtRefusal a.p a.w a.rn) <| s.loadWord a.rn a.rd (s.sdtAddrImm a)

/-- LDRB with an immediate offset (R385). -/
def execLdrbImm (a : SdtImm) (s : State) : Result :=
  whenPassed a.cond s <| unlessRefused (sdtRefusal a.p a.w a.rn) <| s.loadByte a.rn a.rd (s.sdtAddrImm a)

/-- STR with an immediate offset; R15 is stored as `pc + 12` (R386, R388). -/
def execStrImm (a : SdtImm) (s : State) : Result :=
  whenPassed a.cond s <| unlessRefused (sdtRefusal a.p a.w a.rn) <|
    s.storeBus a.rn (s.sdtAddrImm a) (.word (s.readReg .rd a.rd 12#32))

/-- STRB with an immediate offset (R387). -/
def execStrbImm (a : SdtImm) (s : State) : Result :=
  whenPassed a.cond s <| unlessRefused (sdtRefusal a.p a.w a.rn) <|
    s.storeBus a.rn (s.sdtAddrImm a) (s.byteWrite (s.sdtAddrImm a).addr (s.readReg .rd a.rd 12#32))

/-- LDR with a register offset (R384). -/
def execLdrReg (a : SdtReg) (s : State) : Result :=
  whenPassed a.cond s <| unlessRefused (sdtRegRefusal a.p a.w a.rn a.rm) <| s.loadWord a.rn a.rd (s.sdtAddrReg a)

/-- LDRB with a register offset (R385). -/
def execLdrbReg (a : SdtReg) (s : State) : Result :=
  whenPassed a.cond s <| unlessRefused (sdtRegRefusal a.p a.w a.rn a.rm) <| s.loadByte a.rn a.rd (s.sdtAddrReg a)

/-- STR with a register offset (R386, R388). -/
def execStrReg (a : SdtReg) (s : State) : Result :=
  whenPassed a.cond s <| unlessRefused (sdtRegRefusal a.p a.w a.rn a.rm) <|
    s.storeBus a.rn (s.sdtAddrReg a) (.word (s.readReg .rd a.rd 12#32))

/-- STRB with a register offset (R387). -/
def execStrbReg (a : SdtReg) (s : State) : Result :=
  whenPassed a.cond s <| unlessRefused (sdtRegRefusal a.p a.w a.rn a.rm) <|
    s.storeBus a.rn (s.sdtAddrReg a) (s.byteWrite (s.sdtAddrReg a).addr (s.readReg .rd a.rd 12#32))

end Sys2Proof.Machine
end

