-- ==== Sys2Proof/Machine/Coprocessor.lean ====
section
/-! DEFINITION. CDP, LDC, STC, and MRC and MCR outside the rows of coprocessor 15 (spec/48_coprocessor.md,
spec/49_cp15.md R485, R486). The coprocessors 0 to 14 are the answers of `coprocTape` (log entries 11 and 38). -/

namespace Sys2Proof.Machine

open Sys2Proof

/-- The next answer of the coprocessors; an exhausted tape is an absent coprocessor (R460, R461; log entry 11). -/
def State.nextAnswer (s : State) : CoprocAnswer :=
  match s.coprocTape with
  | [] => .refuse
  | a :: _ => a

/-- The state after the answer was taken. -/
def State.popAnswer (s : State) : State := { s with coprocTape := s.coprocTape.tail }

/-- What an accepting coprocessor is given (R460). -/
def State.sendCoproc (s : State) (w : Word) (sent : List Word) : State :=
  { s with coprocSent := ⟨w, s.privileged, sent⟩ :: s.coprocSent }

/-- One more word for the coprocessor that was given an instruction last (R466). -/
def State.sendWord (s : State) (w : Word) : State :=
  match s.coprocSent with
  | [] => s
  | e :: rest => { s with coprocSent := { e with sent := e.sent ++ [w] } :: rest }

/-- The busy-wait: the same instruction word is offered again at the next boundary, without another fetch, unless an
interrupt is taken there (R462; log entry 38). -/
def State.busyWait (s : State) (w : Word) : State := { s with waiting := some w }

/-- The handshake of every instruction for coprocessors 0 to 14: refused is the undefined instruction trap with
nothing else done, busy waits, accepted goes on; a coprocessor that is never ready is asked again and again (R461, R462). -/
def State.handshake (s : State) (w : Word) (accepted : Nat → List Word → State → Result) : Result :=
  match s.nextAnswer with
  | .refuse => .next s.popAnswer.enterUndefined
  | .busy => .next (s.popAnswer.busyWait w)
  | .neverReady => .next (s.busyWait w)
  | .accept count data => accepted count data s.popAnswer

/-- The `k`-th word a coprocessor supplies: from its answer, or free where its answer lists no such word (R460). -/
def State.suppliedWord (s : State) (data : List Word) (k : Nat) : Word :=
  match data[k]? with
  | some w => w
  | none => Config.free (.coprocWord k) s.draws

/-- What the transfers of an LDC or STC leave: the aborting access and the state, or the outcome of an access that ends
the instruction. -/
inductive CoprocOut where
  | done (abort : Option (MemFault × Word)) (s : State)
  | halt (r : Result)

/-- The loads of an LDC, ascending, each word sent on; it stops at the first abort (R466, R469; log entry 30). -/
def ldcTransfers : Nat → Word → State → CoprocOut
  | 0, _, s => .done none s
  | n + 1, addr, s =>
    match s.readWord addr .data with
    | .done w s' => ldcTransfers n (addr + 4#32) (s'.sendWord w)
    | .abort f s' => .done (some (f, addr)) s'
    | .halt r => .halt r

/-- The stores of an STC, ascending; it stops at the first abort (R467, R469; log entry 30). -/
def stcTransfers (supplied : Nat → Word) : Nat → Nat → Word → State → CoprocOut
  | 0, _, _, s => .done none s
  | n + 1, k, addr, s =>
    match s.memWrite addr (.word (supplied k)) false (decide (0 < k)) with
    | .done _ s' => stcTransfers supplied n (k + 1) (addr + 4#32) s'
    | .abort f s' => .done (some (f, addr)) s'
    | .halt r => .halt r

/-- The extra word that LDC reads: whether its abort is taken is open (R468; log entry 8). DESIGN CHOICE, log entry 8: where
it is ignored FSR and FAR are not written. -/
def State.ldcExtraRead (s : State) (addr : Word) : CoprocOut :=
  match s.readWord addr .data with
  | .done _ s' => .done none s'
  | .abort f s' => .done (if Config.ldcExtraAbort then some (f, addr) else none) s'
  | .halt r => .halt r

/-- The end of an LDC or STC: the base is written back, aborted or not (R466, R469). -/
def State.endCdt (s : State) (rn : RegNum) (t : TransferAddr) (abort : Option (MemFault × Word)) : Result :=
  match abort with
  | none => .next (s.writeBack rn t).advance
  | some (f, va) => .next ((s.writeBack rn t).dataAbort f va)

/-- How many words an accepting coprocessor transfers: at least one (R460). -/
def wordCount (count : Nat) : Nat := max 1 count

/-- LDC naming coprocessors 0 to 14 (R466, R468, R469). -/
def State.loadCoproc (s : State) (a : Cdt) : Result :=
  s.handshake (encode (.ldc a)) fun count _ s =>
    let t := s.cdtAddr a
    let n := wordCount count
    match ldcTransfers n t.addr (s.sendCoproc (encode (.ldc a)) []) with
    | .halt r => r
    | .done (some abort) s' => s'.endCdt a.rn t (some abort)
    | .done none s' =>
      match s'.ldcExtraRead (t.addr + BitVec.ofNat 32 (4 * n)) with
      | .halt r => r
      | .done abort s'' => s''.endCdt a.rn t abort

/-- STC naming coprocessors 0 to 14 (R467, R469). -/
def State.storeCoproc (s : State) (a : Cdt) : Result :=
  s.handshake (encode (.stc a)) fun count data s =>
    let t := s.cdtAddr a
    match stcTransfers (s.suppliedWord data) (wordCount count) 0 t.addr (s.sendCoproc (encode (.stc a)) []) with
    | .halt r => r
    | .done abort s' => s'.endCdt a.rn t abort

/-- Write-back to R15 "shall not be specified" (R465). -/
def cdtRefusal (a : Cdt) : Option Refusal := if a.rn = 15#4 && a.w then some .pcWriteBack else none

/-- LDC; coprocessor 15 refuses it (R466, R485; log entry 30). -/
def execLdc (a : Cdt) (s : State) : Result :=
  whenPassed a.cond s <|
    if a.cp = 15#4 then .next s.enterUndefined else unlessRefused (cdtRefusal a) <| s.loadCoproc a

/-- STC; coprocessor 15 refuses it (R467, R485; log entry 30). -/
def execStc (a : Cdt) (s : State) : Result :=
  whenPassed a.cond s <|
    if a.cp = 15#4 then .next s.enterUndefined else unlessRefused (cdtRefusal a) <| s.storeCoproc a

/-- CDP; coprocessor 15 refuses it (R464, R485; log entry 30). -/
def execCdp (a : Cdo) (s : State) : Result :=
  whenPassed a.cond s <|
    if a.cp = 15#4 then .next s.enterUndefined
    else s.handshake (encode (.cdp a)) fun _ _ s => .next (s.sendCoproc (encode (.cdp a)) []).advance

/-- The word of an MRC to its destination: a register, or the flags for R15 (R470, R482). -/
def State.mrcWrite (s : State) (rd : RegNum) (w : Word) : State :=
  if rd = 15#4 then { s with cpsr := s.cpsr.flagsOfWord w }.advance else (s.setReg rd w).advance

/-- MRC (R470); of coprocessor 15 only the registers without a row of their own come here: 8 to 15 trap, the others
yield a free value (R484, R486; log entry 17). -/
def execMrc (a : Crt) (s : State) : Result :=
  whenPassed a.cond s <|
    if a.cp = 15#4 then
      if s.privileged && decide (a.crn.toNat < 8) then .next (s.mrcWrite a.rd (Config.free .cp15Invalid s.draws))
      else .next s.enterUndefined
    else
      s.handshake (encode (.mrc a)) fun _ data s =>
        .next ((s.sendCoproc (encode (.mrc a)) []).mrcWrite a.rd (s.suppliedWord data 0))

/-- MCR (R471): R15 is sent as `pc + 12`; of coprocessor 15 only the registers without a row of their own come here: 8
to 15 trap, 0 and 4 do nothing (R484, R486; log entry 17). -/
def execMcr (a : Crt) (s : State) : Result :=
  whenPassed a.cond s <|
    if a.cp = 15#4 then
      if s.privileged && decide (a.crn.toNat < 8) then .next s.advance else .next s.enterUndefined
    else
      s.handshake (encode (.mcr a)) fun _ _ s =>
        .next (s.sendCoproc (encode (.mcr a)) [s.readReg .rd a.rd 12#32]).advance

end Sys2Proof.Machine
end

