-- ==== Sys2Proof/Machine/Cp15.lean ====
section
/-! DEFINITION. The nine coprocessor 15 transfers that have a row of their own (spec/49_cp15.md R487 to R495). -/

namespace Sys2Proof.Machine

open Sys2Proof

/-- In User mode every transfer with coprocessor 15 takes the undefined instruction trap (R484). -/
def State.whenPrivileged (s : State) (k : Result) : Result := if s.privileged then k else .next s.enterUndefined

/-- The nine bits of a control register write; bits 31:9 are ignored (R56, R488; DESIGN CHOICE, log entry 43). -/
def controlOfWord (w : Word) : Control :=
  ⟨wbit w 0, wbit w 1, wbit w 2, wbit w 3, wbit w 4, wbit w 5, wbit w 6, wbit w 7, wbit w 8⟩

/-- The three combinations with the MMU off and the cache or the write buffer on (R139). -/
def Control.invalid (c : Control) : Bool := (c.c || c.w) && !c.m

/-- Whether the control word leaves the 26-bit program or data space on (R81, R488). -/
def Control.space26 (c : Control) : Bool := !c.p || !c.d

/-- What a control register write is refused for: an invalid combination (R139), and under the policy `refuse` of `CFG26`
a 26-bit space (R81; log entry 6). -/
def State.controlRefusal (s : State) (c : Control) : Option Refusal :=
  if c.invalid then some .invalidCombination
  else if c.space26 && decide (s.cfg26 = .refuse) then some .cfg26
  else none

/-- The FSR as read: bits 31:12 are free, bits 11:8 are 0 (R490). -/
def State.fsrWord (s : State) : Word := place 12 (field (Config.free .fsrUpper s.draws) 12 20) ||| place 0 s.fsr

/-- Read the ID register (R487). -/
def execMrcId (a : Cp15Args) (s : State) : Result :=
  whenPassed a.cond s <| s.whenPrivileged <| .next (s.mrcWrite a.rd Config.idValue)

/-- Read the Fault Status register (R490). -/
def execMrcFsr (a : Cp15Args) (s : State) : Result :=
  whenPassed a.cond s <| s.whenPrivileged <| .next (s.mrcWrite a.rd s.fsrWord)

/-- Read the Fault Address register (R491). -/
def execMrcFar (a : Cp15Args) (s : State) : Result :=
  whenPassed a.cond s <| s.whenPrivileged <| .next (s.mrcWrite a.rd s.far)

/-- Write the Control register; R15 is sent as `pc + 12` (R488). -/
def execMcrControl (a : Cp15Args) (s : State) : Result :=
  whenPassed a.cond s <| s.whenPrivileged <|
    let c := controlOfWord (s.readReg .rd a.rd 12#32)
    unlessRefused (s.controlRefusal c) <| .next { s with control := c }.advance

/-- Write the Translation Table Base register: bits 31:14 (R489). -/
def execMcrTtb (a : Cp15Args) (s : State) : Result :=
  whenPassed a.cond s <| s.whenPrivileged <| .next { s with ttb := field (s.readReg .rd a.rd 12#32) 14 18 }.advance

/-- Write the Domain Access Control register (R495). -/
def execMcrDacr (a : Cp15Args) (s : State) : Result :=
  whenPassed a.cond s <| s.whenPrivileged <| .next { s with dacr := s.readReg .rd a.rd 12#32 }.advance

/-- Flush the TLB; the data is not used (R492). -/
def execMcrTlbFlush (a : Cp15Args) (s : State) : Result :=
  whenPassed a.cond s <| s.whenPrivileged <| .next s.tlbFlush.advance

/-- Purge the TLB entries that cover the address in Rd (R493). -/
def execMcrTlbPurge (a : Cp15Args) (s : State) : Result :=
  whenPassed a.cond s <| s.whenPrivileged <| .next (s.tlbPurge (s.readReg .rd a.rd 12#32)).advance

/-- Flush the cache; the data is not used (R494). -/
def execMcrIdcFlush (a : Cp15Args) (s : State) : Result :=
  whenPassed a.cond s <| s.whenPrivileged <| .next s.idcFlush.advance

end Sys2Proof.Machine
end

