-- ==== Sys2Proof/Machine/Multiply.lean ====
section
/-! DEFINITION. MUL and MLA (spec/43_multiply.md). -/

namespace Sys2Proof.Machine

open Sys2Proof

/-- The end of a multiply: the register, and with S set the flags (R371, R374). -/
def State.writeProduct (s : State) (sBit : Bool) (rd : RegNum) (result : Word) (flags : Cpsr) : Result :=
  .next { s.setReg rd result with cpsr := if sBit then flags else s.cpsr }.advance

/-- MUL: the low 32 bits of `Rm * Rs`, zero where Rd = Rm (R371, R373). -/
def execMul (a : MulArgs) (s : State) : Result :=
  whenPassed a.cond s <| unlessRefused (pcRefusal (a.rd == 15#4 || a.rm == 15#4 || a.rs == 15#4)) <|
    let result := if a.rd = a.rm then 0#32 else s.readReg .rm a.rm 8#32 * s.readReg .rs a.rs 8#32
    s.writeProduct a.s a.rd result (s.multiplyFlags result)

/-- MLA: the low 32 bits of `Rm * Rs + Rn`; where Rd = Rm a free value, and N and Z free as well (R372, R373). -/
def execMla (a : MulArgs) (s : State) : Result :=
  whenPassed a.cond s <|
    unlessRefused (pcRefusal (a.rd == 15#4 || a.rm == 15#4 || a.rs == 15#4 || a.rn == 15#4)) <|
      if a.rd = a.rm then s.writeProduct a.s a.rd (Config.free .mlaResult s.draws) s.meaninglessFlags
      else
        let result := s.readReg .rm a.rm 8#32 * s.readReg .rs a.rs 8#32 + s.readReg .rn a.rn 8#32
        s.writeProduct a.s a.rd result (s.multiplyFlags result)

end Sys2Proof.Machine
end

