-- ==== Sys2Proof/Machine/Psr.lean ====
section
/-! DEFINITION. MRS and MSR (spec/42_psr_transfer.md). -/

namespace Sys2Proof.Machine

open Sys2Proof

/-- An SPSR with its flags taken from bits 31:28 of a word (R354). -/
def Psr.flagsOfWord (p : Psr) (w : Word) : Psr :=
  { p with n := wbit w 31, z := wbit w 30, c := wbit w 29, v := wbit w 28 }

/-- `SPSR[cur] <- p`, refused in User mode (R352, R357). -/
def State.writeSpsr (s : State) (p : Psr → Psr) : Result :=
  match s.spsr with
  | none => .refused .spsrInUser
  | some old => .next (s.setSpsr s.cpsr.mode (p old)).advance

/-- The flag bits of the CPSR or of `SPSR[cur]` from bits 31:28 of a word; bits 27:0 stay (R354, R355). -/
def State.writePsrFlags (s : State) (spsr : Bool) (w : Word) : Result :=
  if spsr then s.writeSpsr fun p => p.flagsOfWord w
  else .next { s with cpsr := s.cpsr.flagsOfWord w }.advance

/-- MRS: the CPSR or `SPSR[cur]` to a register; the reserved bits read as free values (R351). -/
def execMrs (a : MrsArgs) (s : State) : Result :=
  whenPassed a.cond s <| unlessRefused (pcRefusal (a.rd == 15#4)) <|
    match if a.spsr then s.spsr else some (saveCpsr s.cpsr) with
    | none => .refused .spsrInUser
    | some p => .next (s.setReg a.rd (psrWord p (Config.free .reservedPsr s.draws))).advance

/-- MSR to a whole PSR (R352): in User mode only the CPSR's flags are written (R353), and there is no SPSR. -/
def execMsr (a : MsrRegArgs) (s : State) : Result :=
  whenPassed a.cond s <| unlessRefused (pcRefusal (a.rm == 15#4)) <|
    let w := s.readReg .rm a.rm 8#32
    if a.spsr then s.writeSpsr fun _ => psrOfWord w
    else if s.privileged then
      match restorePsr (psrOfWord w) with
      | none => .refused .invalidMode
      | some c => .next { s with cpsr := c }.advance
    else .next { s with cpsr := s.cpsr.flagsOfWord w }.advance

/-- MSR to the flag bits from a register (R354). -/
def execMsrFlgReg (a : MsrRegArgs) (s : State) : Result :=
  whenPassed a.cond s <| unlessRefused (pcRefusal (a.rm == 15#4)) <|
    s.writePsrFlags a.spsr (s.readReg .rm a.rm 8#32)

/-- MSR to the flag bits from an immediate (R355). -/
def execMsrFlgImm (a : MsrImmArgs) (s : State) : Result :=
  whenPassed a.cond s <| s.writePsrFlags a.spsr (rotatedImm a.rotate a.imm)

end Sys2Proof.Machine
end

