-- ==== Sys2Proof/Machine/Swap.lean ====
section
/-! DEFINITION. SWP and SWPB (spec/46_swap.md). -/

namespace Sys2Proof.Machine

open Sys2Proof

/-- The write of a swap and, where it is not aborted, the register write (R441, R444). -/
def State.swapWrite (s : State) (rd : RegNum) (addr : Word) (w : BusWrite) (loaded : Word) : Result :=
  match s.memWrite addr w true false with
  | .done _ s' => .next (s'.setReg rd loaded).advance
  | .abort f s' => .next (s'.dataAbort f addr)
  | .halt r => r

/-- SWP: a word read, never from the cache, then an unbuffered word write; no write after an aborted read (R441). -/
def execSwp (a : SwpArgs) (s : State) : Result :=
  whenPassed a.cond s <| unlessRefused (pcRefusal (a.rd == 15#4 || a.rm == 15#4 || a.rn == 15#4)) <|
    let addr := s.readReg .base a.rn 8#32
    match s.readWord addr .swap with
    | .done w s' => s'.swapWrite a.rd addr (.word (s.readReg .rm a.rm 8#32)) (rotateLoaded w addr)
    | .abort f s' => .next (s'.dataAbort f addr)
    | .halt r => r

/-- SWPB: the same with one byte, zero-extended (R442). -/
def execSwpb (a : SwpArgs) (s : State) : Result :=
  whenPassed a.cond s <| unlessRefused (pcRefusal (a.rd == 15#4 || a.rm == 15#4 || a.rn == 15#4)) <|
    let addr := s.readReg .base a.rn 8#32
    match s.readByte addr .swap with
    | .done b s' => s'.swapWrite a.rd addr (s.byteWrite addr (s.readReg .rm a.rm 8#32)) (b.setWidth 32)
    | .abort f s' => .next (s'.dataAbort f addr)
    | .halt r => r

end Sys2Proof.Machine
end

