-- ==== Sys2Proof/Machine/Dispatch.lean ====
section
/-! DEFINITION. The meaning of every instruction: one arm per constructor of Instr. -/

namespace Sys2Proof.Machine

open Sys2Proof

def exec (i : Instr) (s : State) : Host.Outcome State Fault Refusal :=
  match i with
  | .andImm a => Sys2Proof.Machine.execAndImm a s
  | .andShift a => Sys2Proof.Machine.execAndShift a s
  | .andRegShift a => Sys2Proof.Machine.execAndRegShift a s
  | .eorImm a => Sys2Proof.Machine.execEorImm a s
  | .eorShift a => Sys2Proof.Machine.execEorShift a s
  | .eorRegShift a => Sys2Proof.Machine.execEorRegShift a s
  | .subImm a => Sys2Proof.Machine.execSubImm a s
  | .subShift a => Sys2Proof.Machine.execSubShift a s
  | .subRegShift a => Sys2Proof.Machine.execSubRegShift a s
  | .rsbImm a => Sys2Proof.Machine.execRsbImm a s
  | .rsbShift a => Sys2Proof.Machine.execRsbShift a s
  | .rsbRegShift a => Sys2Proof.Machine.execRsbRegShift a s
  | .addImm a => Sys2Proof.Machine.execAddImm a s
  | .addShift a => Sys2Proof.Machine.execAddShift a s
  | .addRegShift a => Sys2Proof.Machine.execAddRegShift a s
  | .adcImm a => Sys2Proof.Machine.execAdcImm a s
  | .adcShift a => Sys2Proof.Machine.execAdcShift a s
  | .adcRegShift a => Sys2Proof.Machine.execAdcRegShift a s
  | .sbcImm a => Sys2Proof.Machine.execSbcImm a s
  | .sbcShift a => Sys2Proof.Machine.execSbcShift a s
  | .sbcRegShift a => Sys2Proof.Machine.execSbcRegShift a s
  | .rscImm a => Sys2Proof.Machine.execRscImm a s
  | .rscShift a => Sys2Proof.Machine.execRscShift a s
  | .rscRegShift a => Sys2Proof.Machine.execRscRegShift a s
  | .tstImm a => Sys2Proof.Machine.execTstImm a s
  | .tstShift a => Sys2Proof.Machine.execTstShift a s
  | .tstRegShift a => Sys2Proof.Machine.execTstRegShift a s
  | .teqImm a => Sys2Proof.Machine.execTeqImm a s
  | .teqShift a => Sys2Proof.Machine.execTeqShift a s
  | .teqRegShift a => Sys2Proof.Machine.execTeqRegShift a s
  | .cmpImm a => Sys2Proof.Machine.execCmpImm a s
  | .cmpShift a => Sys2Proof.Machine.execCmpShift a s
  | .cmpRegShift a => Sys2Proof.Machine.execCmpRegShift a s
  | .cmnImm a => Sys2Proof.Machine.execCmnImm a s
  | .cmnShift a => Sys2Proof.Machine.execCmnShift a s
  | .cmnRegShift a => Sys2Proof.Machine.execCmnRegShift a s
  | .orrImm a => Sys2Proof.Machine.execOrrImm a s
  | .orrShift a => Sys2Proof.Machine.execOrrShift a s
  | .orrRegShift a => Sys2Proof.Machine.execOrrRegShift a s
  | .movImm a => Sys2Proof.Machine.execMovImm a s
  | .movShift a => Sys2Proof.Machine.execMovShift a s
  | .movRegShift a => Sys2Proof.Machine.execMovRegShift a s
  | .bicImm a => Sys2Proof.Machine.execBicImm a s
  | .bicShift a => Sys2Proof.Machine.execBicShift a s
  | .bicRegShift a => Sys2Proof.Machine.execBicRegShift a s
  | .mvnImm a => Sys2Proof.Machine.execMvnImm a s
  | .mvnShift a => Sys2Proof.Machine.execMvnShift a s
  | .mvnRegShift a => Sys2Proof.Machine.execMvnRegShift a s
  | .mrs a => Sys2Proof.Machine.execMrs a s
  | .msr a => Sys2Proof.Machine.execMsr a s
  | .msrFlgReg a => Sys2Proof.Machine.execMsrFlgReg a s
  | .msrFlgImm a => Sys2Proof.Machine.execMsrFlgImm a s
  | .mul a => Sys2Proof.Machine.execMul a s
  | .mla a => Sys2Proof.Machine.execMla a s
  | .swp a => Sys2Proof.Machine.execSwp a s
  | .swpb a => Sys2Proof.Machine.execSwpb a s
  | .ldrImm a => Sys2Proof.Machine.execLdrImm a s
  | .ldrbImm a => Sys2Proof.Machine.execLdrbImm a s
  | .strImm a => Sys2Proof.Machine.execStrImm a s
  | .strbImm a => Sys2Proof.Machine.execStrbImm a s
  | .ldrReg a => Sys2Proof.Machine.execLdrReg a s
  | .ldrbReg a => Sys2Proof.Machine.execLdrbReg a s
  | .strReg a => Sys2Proof.Machine.execStrReg a s
  | .strbReg a => Sys2Proof.Machine.execStrbReg a s
  | .undefined a => Sys2Proof.Machine.execUndefined a s
  | .ldm a => Sys2Proof.Machine.execLdm a s
  | .stm a => Sys2Proof.Machine.execStm a s
  | .b a => Sys2Proof.Machine.execB a s
  | .bl a => Sys2Proof.Machine.execBl a s
  | .ldc a => Sys2Proof.Machine.execLdc a s
  | .stc a => Sys2Proof.Machine.execStc a s
  | .cdp a => Sys2Proof.Machine.execCdp a s
  | .mrc a => Sys2Proof.Machine.execMrc a s
  | .mcr a => Sys2Proof.Machine.execMcr a s
  | .swi a => Sys2Proof.Machine.execSwi a s
  | .mrcId a => Sys2Proof.Machine.execMrcId a s
  | .mrcFsr a => Sys2Proof.Machine.execMrcFsr a s
  | .mrcFar a => Sys2Proof.Machine.execMrcFar a s
  | .mcrControl a => Sys2Proof.Machine.execMcrControl a s
  | .mcrTtb a => Sys2Proof.Machine.execMcrTtb a s
  | .mcrDacr a => Sys2Proof.Machine.execMcrDacr a s
  | .mcrTlbFlush a => Sys2Proof.Machine.execMcrTlbFlush a s
  | .mcrTlbPurge a => Sys2Proof.Machine.execMcrTlbPurge a s
  | .mcrIdcFlush a => Sys2Proof.Machine.execMcrIdcFlush a s

end Sys2Proof.Machine
end

