-- ==== Sys2Proof/Machine/Fetch.lean ====
section
/-! DEFINITION. Instruction fetch and the prefetched instructions (spec/10_state.md R75, R76; log entry 9). -/

namespace Sys2Proof.Machine

open Sys2Proof

/-- A fetch at a virtual address; an abort marks the word and writes no FSR or FAR (R76, R110, R201). -/
def State.fetchAt (s : State) (va : Word) : Access Fetched :=
  match s.readBusWord va .fetch with
  | .done w s' => .done ⟨some w, s.control, s.privileged⟩ s'
  | .abort _ s' => .done ⟨none, s.control, s.privileged⟩ s'
  | .halt r => .halt r

/-- The settings of a later fetch of the `k`-th prefetched word: those of the fetch already made, or where the MMU has
been switched on or off since, by a free choice, the control register now in force ("the translation then in force", R75;
spec/93_implementation_defined.md row 39). The privilege is that of the fetch already made (R359; log entry 9). -/
def State.lateSettings (s : State) (k : Nat) (old : Fetched) : Fetched :=
  if old.control.m != s.control.m && wbit (Config.free (.refetch k) s.draws) 1 then { old with control := s.control }
  else old

/-- The memory system under the control register and the privilege of a fetch (R75, R205, R359, R488; log entry 9).
DESIGN CHOICE, log entry 9: a later fetch meets no answer of `busTape`, only memory's own word and the ABORT of
`abortRanges`, so that a word which a device answered, or the mark of an ABORT raised for that one transfer (R76), may
give way to memory's word. It is translated and checked with the TLB, the translation table base and the DACR of now
(R489, R495). -/
def State.underSettings (s : State) (f : Fetched) : State :=
  { s with
    control := f.control
    cpsr := { s.cpsr with mode := if f.privileged then .svc else .usr }
    busTape := [] }

/-- The word that a later fetch under the settings of `old` would have brought, and the state after it: buffered writes
are performed before the read (R146), and the TLB and the cache hold what the fetch already made put there (R75).
DESIGN CHOICE, log entry 9: where that later fetch would be refused, because a buffered write before it or word 1, 2 or 3
of its linefetch is externally aborted (R144, R202), it is not made and the old word runs; where it faults or is aborted
otherwise, it brings an abort mark, and the prefetch abort may come in place of the old word. -/
def State.lateFetch (s : State) (old : Fetched) (va : Word) : Fetched × State :=
  match (s.underSettings old).readBusWord va .fetch with
  | .done w t => ({ old with word := some w }, { s with mem := t.mem, writeBuffer := t.writeBuffer, draws := t.draws })
  | .abort _ t => ({ old with word := none }, { s with mem := t.mem, writeBuffer := t.writeBuffer, draws := t.draws })
  | .halt _ => (old, s)

/-- The `k`-th prefetched word at `va`: the word already fetched, or where it differs the one that a later fetch would
have brought; which of the two is free (R75, R151; spec/93_implementation_defined.md row 39). -/
def State.refetch (s : State) (k : Nat) (old : Fetched) (va : Word) : Fetched × State :=
  let late := s.lateFetch (s.lateSettings k old) va
  if late.1.word ≠ old.word && wbit (Config.free (.refetch k) s.draws) 0 then late else (old, s)

/-- The `k`-th word from `pc` on: prefetched already, or fetched now. -/
def State.fetchSlot (s : State) (k : Nat) : Access Fetched :=
  let va := s.pc + BitVec.ofNat 32 (4 * k)
  match s.prefetch[k]? with
  | some old => let (f, s') := s.refetch k old va; .done f s'
  | none => s.fetchAt va

/-- The fetches of one instruction: the word at `pc`, while the words at `pc + 4` and `pc + 8` "have already been read"
(R75) and stay prefetched. -/
def State.fetchStage (s : State) : Access Fetched :=
  (s.fetchSlot 0).andThen fun f0 s0 =>
    (s0.fetchSlot 1).andThen fun f1 s1 =>
      (s1.fetchSlot 2).andThen fun f2 s2 =>
        .done f0 { s2 with prefetch := [f1, f2] }

end Sys2Proof.Machine
end

