-- ==== Sys2Proof/Machine/Cycle.lean ====
section
/-! DEFINITION. One step of the machine: reset, other bus masters, interrupts, fetch, execution (spec/60_exceptions.md
R540, R544, spec/70_reset_and_hazards.md R570, R599). -/

namespace Sys2Proof.Machine

open Sys2Proof

/-- All lines HIGH and no other bus master: what an exhausted input list means (log entry 10). -/
def Inputs.idle : Inputs := ⟨false, false, false, []⟩

/-- What the outside drives at this boundary (R540, R599). -/
def State.nextInputs (s : State) : Inputs :=
  match s.inputs with
  | [] => Inputs.idle
  | i :: _ => i

/-- The state after the inputs of this boundary were taken. -/
def State.popInputs (s : State) : State := { s with inputs := s.inputs.tail }

/-- After an instruction: the next free values are others, and the hazard of a User-bank LDM has lasted for one
instruction (R590); one that still waits for its coprocessor counts as not started (R462). -/
def State.afterInstruction (s : State) : State :=
  { s with draws := s.draws + 1, hazard := if s.waiting.isSome then s.hazard else s.hazard - 1 }

/-- Whatever the outcome, `afterInstruction` on the next state. -/
def finish (r : Result) : Result :=
  match r with
  | .next s => .next s.afterInstruction
  | .fault f => .fault f
  | .refused r => .refused r

/-- The execution of a word: one that is no instruction has no meaning where its condition passes (R257) and is skipped
where it fails (R280). -/
def State.runWord (s : State) (w : Word) : Result :=
  match decodeWord w with
  | .ok i => finish (exec i s)
  | .error r => if condPassed (condOf w) s.cpsr then .refused (.unallocated r) else finish (.next s.advance)

/-- The fetched word is executed; an abort mark is the prefetch abort (R524). -/
def State.runFetched (s : State) (f : Fetched) : Result :=
  match f.word with
  | none => .next s.enterPrefetchAbort.bump
  | some w => s.runWord w

/-- The instruction at `pc`: the one that waits for its coprocessor is offered again (R462), another is fetched. -/
def State.runInstruction (s : State) : Result :=
  match s.waiting with
  | some w => { s with waiting := none }.runWord w
  | none =>
    match s.fetchStage with
    | .done f s' => s'.runFetched f
    | .abort _ s' => .next s'.enterPrefetchAbort.bump
    | .halt r => r

/-- One turn of the loop of R544: reset first, then FIQ, IRQ, prefetch abort, and the instruction. The words of other bus
masters land before the lines are sampled, and the write buffer drains by itself (log entries 19 and 36). -/
def State.cycle (s : State) : Result :=
  let inp := s.nextInputs
  let s1 := { s.popInputs with mem := applyDma inp.dma s.mem }
  if inp.reset then .next s1.boundaryReset
  else if inp.fiq && !s1.cpsr.f then .next s1.enterFiq.bump
  else if inp.irq && !s1.cpsr.i then .next s1.enterIrq.bump
  else
    match s1.drainSome with
    | .done _ s2 => s2.runInstruction
    | .abort _ s2 => s2.runInstruction
    | .halt r => r

end Sys2Proof.Machine
end

