-- ==== Sys2Proof/Machine/Step.lean ====
section
/-! DEFINITION. One step of the machine, and an instruction placed where the step fetches. -/

namespace Sys2Proof.Machine

open Sys2Proof

/-- One step: one instruction or one exception entry (R544, R598). DESIGN CHOICE, log entry 45: no state is an end of the
run (`END_OF_RUN`, R599). -/
def step (s : State) : Host.Outcome State Fault Refusal := s.cycle

/-- The instruction word `w` stored where the next instruction is fetched, no word fetched before and none waiting. It
stands for the load of a program from outside the machine (log entry 32); the fetch is flat, as it is after reset. -/
def State.withFetchWord (s : State) (nbits w : Nat) : State :=
  { s with mem := Memory.writeWord s.mem s.pc (BitVec.ofNat 32 (w % 2 ^ nbits)), prefetch := [], waiting := none }

end Sys2Proof.Machine
end

