-- ==== Sys2Proof/Safety.lean ====
section
/-! DEFINITION. The terms that statements use: the invariant, memory with the buffered writes performed, the flat
memory, and the arithmetic of spec/41_data_processing.md written as integer arithmetic. -/

namespace Sys2Proof.Machine

open Sys2Proof

/-- What every step keeps: memory in canonical form, the pc a multiple of 4 (R42), at most two prefetched words (R75), a
write buffer of at most 8 words in at most 2 address runs (R140), one of the five valid
MMU/IDC/WB combinations (R139), and the hazard count in range. -/
structure Inv (s : State) : Prop where
  memory : Memory.wf s.mem = true
  pcAligned : laneBits s.pc = 0#2
  prefetched : s.prefetch.length ≤ 2
  bufferWords : s.writeBuffer.length ≤ 8
  bufferRuns : wbRuns s.writeBuffer ≤ 2
  combination : s.control.invalid = false
  hazardRange : s.hazard ≤ 2

/-- Buffered writes performed in order on a memory. -/
def settle : List WbEntry → Memory → Memory
  | [], m => m
  | e :: rest, m => settle rest (e.write.onMemory m e.addr)

/-- Memory as it is once every buffered write has been performed: the processor's own view of it (R147). -/
def State.settledMem (s : State) : Memory := settle s.writeBuffer s.mem

/-- Buffered writes performed in order on a memory, the `k`-th of them and the later ones where `lands` says so. -/
def settleWhere (lands : Nat → Bool) : Nat → List WbEntry → Memory → Memory
  | _, [], m => m
  | k, e :: rest, m => settleWhere lands (k + 1) rest (if lands k then e.write.onMemory m e.addr else m)

/-- No other bus master writes and no reset falls inside the transfers to come (R30, R571). ABORT and the words of devices
are as they may be. -/
def State.calm (s : State) : Prop := ∀ a ∈ s.busTape, a.dma = [] ∧ a.reset = false

/-- What every reset forces, at an instruction boundary or inside a transfer (R80, R570, R571). -/
structure ResetForced (t : State) : Prop where
  pc : t.pc = 0x00000000#32
  mode : t.cpsr.mode = .svc
  irqOff : t.cpsr.i = true
  fiqOff : t.cpsr.f = true
  control : t.control = Control.zero
  cacheEmpty : t.idc = Vector.replicate 256 none
  bufferEmpty : t.writeBuffer = []
  nothingFetched : t.prefetch = []
  nothingWaits : t.waiting = none

/-- The memory system right after reset: MMU and alignment fault off, nothing buffered, no address aborts and nothing
disturbs a transfer. -/
structure Flat (s : State) : Prop where
  mmuOff : s.control.m = false
  cacheOff : s.control.c = false
  bufferOff : s.control.w = false
  alignOff : s.control.a = false
  nothingBuffered : s.writeBuffer = []
  noAborts : s.abortRanges = []
  busIdle : s.busTape = []

/-- What no memory access changes: everything but the TLB, the cache, the write buffer, memory, the answers of the bus and
the counter of free values. -/
structure AccessFrame (s t : State) : Prop where
  regs : t.regs = s.regs
  pc : t.pc = s.pc
  cpsr : t.cpsr = s.cpsr
  spsrFiq : t.spsrFiq = s.spsrFiq
  spsrIrq : t.spsrIrq = s.spsrIrq
  spsrSvc : t.spsrSvc = s.spsrSvc
  spsrAbt : t.spsrAbt = s.spsrAbt
  spsrUnd : t.spsrUnd = s.spsrUnd
  control : t.control = s.control
  ttb : t.ttb = s.ttb
  dacr : t.dacr = s.dacr
  fsr : t.fsr = s.fsr
  far : t.far = s.far
  prefetch : t.prefetch = s.prefetch
  waiting : t.waiting = s.waiting
  hazard : t.hazard = s.hazard
  abortRanges : t.abortRanges = s.abortRanges
  inputs : t.inputs = s.inputs
  coprocTape : t.coprocTape = s.coprocTape
  coprocSent : t.coprocSent = s.coprocSent
  cfg26 : t.cfg26 = s.cfg26

/-- The condition field of an instruction (R280). -/
def instrCond : Instr → Cond
  | .andImm a => a.cond
  | .andShift a => a.cond
  | .andRegShift a => a.cond
  | .eorImm a => a.cond
  | .eorShift a => a.cond
  | .eorRegShift a => a.cond
  | .subImm a => a.cond
  | .subShift a => a.cond
  | .subRegShift a => a.cond
  | .rsbImm a => a.cond
  | .rsbShift a => a.cond
  | .rsbRegShift a => a.cond
  | .addImm a => a.cond
  | .addShift a => a.cond
  | .addRegShift a => a.cond
  | .adcImm a => a.cond
  | .adcShift a => a.cond
  | .adcRegShift a => a.cond
  | .sbcImm a => a.cond
  | .sbcShift a => a.cond
  | .sbcRegShift a => a.cond
  | .rscImm a => a.cond
  | .rscShift a => a.cond
  | .rscRegShift a => a.cond
  | .tstImm a => a.cond
  | .tstShift a => a.cond
  | .tstRegShift a => a.cond
  | .teqImm a => a.cond
  | .teqShift a => a.cond
  | .teqRegShift a => a.cond
  | .cmpImm a => a.cond
  | .cmpShift a => a.cond
  | .cmpRegShift a => a.cond
  | .cmnImm a => a.cond
  | .cmnShift a => a.cond
  | .cmnRegShift a => a.cond
  | .orrImm a => a.cond
  | .orrShift a => a.cond
  | .orrRegShift a => a.cond
  | .movImm a => a.cond
  | .movShift a => a.cond
  | .movRegShift a => a.cond
  | .bicImm a => a.cond
  | .bicShift a => a.cond
  | .bicRegShift a => a.cond
  | .mvnImm a => a.cond
  | .mvnShift a => a.cond
  | .mvnRegShift a => a.cond
  | .mrs a => a.cond
  | .msr a => a.cond
  | .msrFlgReg a => a.cond
  | .msrFlgImm a => a.cond
  | .mul a => a.cond
  | .mla a => a.cond
  | .swp a => a.cond
  | .swpb a => a.cond
  | .ldrImm a => a.cond
  | .ldrbImm a => a.cond
  | .strImm a => a.cond
  | .strbImm a => a.cond
  | .ldrReg a => a.cond
  | .ldrbReg a => a.cond
  | .strReg a => a.cond
  | .strbReg a => a.cond
  | .undefined a => a.cond
  | .ldm a => a.cond
  | .stm a => a.cond
  | .b a => a.cond
  | .bl a => a.cond
  | .ldc a => a.cond
  | .stc a => a.cond
  | .cdp a => a.cond
  | .mrc a => a.cond
  | .mcr a => a.cond
  | .swi a => a.cond
  | .mrcId a => a.cond
  | .mrcFsr a => a.cond
  | .mrcFar a => a.cond
  | .mcrControl a => a.cond
  | .mcrTtb a => a.cond
  | .mcrDacr a => a.cond
  | .mcrTlbFlush a => a.cond
  | .mcrTlbPurge a => a.cond
  | .mcrIdcFlush a => a.cond

/-- The instructions that store to memory. -/
def instrStores : Instr → Bool
  | .andImm _ => false
  | .andShift _ => false
  | .andRegShift _ => false
  | .eorImm _ => false
  | .eorShift _ => false
  | .eorRegShift _ => false
  | .subImm _ => false
  | .subShift _ => false
  | .subRegShift _ => false
  | .rsbImm _ => false
  | .rsbShift _ => false
  | .rsbRegShift _ => false
  | .addImm _ => false
  | .addShift _ => false
  | .addRegShift _ => false
  | .adcImm _ => false
  | .adcShift _ => false
  | .adcRegShift _ => false
  | .sbcImm _ => false
  | .sbcShift _ => false
  | .sbcRegShift _ => false
  | .rscImm _ => false
  | .rscShift _ => false
  | .rscRegShift _ => false
  | .tstImm _ => false
  | .tstShift _ => false
  | .tstRegShift _ => false
  | .teqImm _ => false
  | .teqShift _ => false
  | .teqRegShift _ => false
  | .cmpImm _ => false
  | .cmpShift _ => false
  | .cmpRegShift _ => false
  | .cmnImm _ => false
  | .cmnShift _ => false
  | .cmnRegShift _ => false
  | .orrImm _ => false
  | .orrShift _ => false
  | .orrRegShift _ => false
  | .movImm _ => false
  | .movShift _ => false
  | .movRegShift _ => false
  | .bicImm _ => false
  | .bicShift _ => false
  | .bicRegShift _ => false
  | .mvnImm _ => false
  | .mvnShift _ => false
  | .mvnRegShift _ => false
  | .mrs _ => false
  | .msr _ => false
  | .msrFlgReg _ => false
  | .msrFlgImm _ => false
  | .mul _ => false
  | .mla _ => false
  | .swp _ => true
  | .swpb _ => true
  | .ldrImm _ => false
  | .ldrbImm _ => false
  | .strImm _ => true
  | .strbImm _ => true
  | .ldrReg _ => false
  | .ldrbReg _ => false
  | .strReg _ => true
  | .strbReg _ => true
  | .undefined _ => false
  | .ldm _ => false
  | .stm _ => true
  | .b _ => false
  | .bl _ => false
  | .ldc _ => false
  | .stc _ => true
  | .cdp _ => false
  | .mrc _ => false
  | .mcr _ => false
  | .swi _ => false
  | .mrcId _ => false
  | .mrcFsr _ => false
  | .mrcFar _ => false
  | .mcrControl _ => false
  | .mcrTtb _ => false
  | .mcrDacr _ => false
  | .mcrTlbFlush _ => false
  | .mcrTlbPurge _ => false
  | .mcrIdcFlush _ => false

/-- The instruction of a data-processing operation with an immediate; the tests always set the flags (R300, R328). -/
def dpImm (op : AluOp) (a : DpImm) : Instr :=
  match op with
  | .and => .andImm a
  | .eor => .eorImm a
  | .sub => .subImm a
  | .rsb => .rsbImm a
  | .add => .addImm a
  | .adc => .adcImm a
  | .sbc => .sbcImm a
  | .rsc => .rscImm a
  | .tst => .tstImm ⟨a.cond, a.rn, a.rd, a.rotate, a.imm⟩
  | .teq => .teqImm ⟨a.cond, a.rn, a.rd, a.rotate, a.imm⟩
  | .cmp => .cmpImm ⟨a.cond, a.rn, a.rd, a.rotate, a.imm⟩
  | .cmn => .cmnImm ⟨a.cond, a.rn, a.rd, a.rotate, a.imm⟩
  | .orr => .orrImm a
  | .mov => .movImm a
  | .bic => .bicImm a
  | .mvn => .mvnImm a

/-- The instruction of a data-processing operation with a register shifted by an amount in the instruction; the tests always set the flags (R300, R328). -/
def dpShift (op : AluOp) (a : DpShift) : Instr :=
  match op with
  | .and => .andShift a
  | .eor => .eorShift a
  | .sub => .subShift a
  | .rsb => .rsbShift a
  | .add => .addShift a
  | .adc => .adcShift a
  | .sbc => .sbcShift a
  | .rsc => .rscShift a
  | .tst => .tstShift ⟨a.cond, a.rn, a.rd, a.amount, a.type, a.rm⟩
  | .teq => .teqShift ⟨a.cond, a.rn, a.rd, a.amount, a.type, a.rm⟩
  | .cmp => .cmpShift ⟨a.cond, a.rn, a.rd, a.amount, a.type, a.rm⟩
  | .cmn => .cmnShift ⟨a.cond, a.rn, a.rd, a.amount, a.type, a.rm⟩
  | .orr => .orrShift a
  | .mov => .movShift a
  | .bic => .bicShift a
  | .mvn => .mvnShift a

/-- The instruction of a data-processing operation with a register shifted by a register; the tests always set the flags (R300, R328). -/
def dpRegShift (op : AluOp) (a : DpRegShift) : Instr :=
  match op with
  | .and => .andRegShift a
  | .eor => .eorRegShift a
  | .sub => .subRegShift a
  | .rsb => .rsbRegShift a
  | .add => .addRegShift a
  | .adc => .adcRegShift a
  | .sbc => .sbcRegShift a
  | .rsc => .rscRegShift a
  | .tst => .tstRegShift ⟨a.cond, a.rn, a.rd, a.rs, a.type, a.rm⟩
  | .teq => .teqRegShift ⟨a.cond, a.rn, a.rd, a.rs, a.type, a.rm⟩
  | .cmp => .cmpRegShift ⟨a.cond, a.rn, a.rd, a.rs, a.type, a.rm⟩
  | .cmn => .cmnRegShift ⟨a.cond, a.rn, a.rd, a.rs, a.type, a.rm⟩
  | .orr => .orrRegShift a
  | .mov => .movRegShift a
  | .bic => .bicRegShift a
  | .mvn => .mvnRegShift a

/-- Whether the operation writes its result: all but TST, TEQ, CMP and CMN (R300). -/
def aluWrites : AluOp → Bool
  | .tst | .teq | .cmp | .cmn => false
  | .and | .eor | .sub | .rsb | .add | .adc | .sbc | .rsc | .orr | .mov | .bic | .mvn => true

/-- The C flag as a word. -/
def carryWord (c : Bool) : Word := if c then 1#32 else 0#32

/-- The result of each operation in the words of R300, modulo 2^32. -/
def aluResult (op : AluOp) (x b : Word) (c : Bool) : Word :=
  match op with
  | .and | .tst => x &&& b
  | .eor | .teq => x ^^^ b
  | .sub | .cmp => x - b
  | .rsb => b - x
  | .add | .cmn => x + b
  | .adc => x + b + carryWord c
  | .sbc => x - b + carryWord c - 1#32
  | .rsc => b - x + carryWord c - 1#32
  | .orr => x ||| b
  | .mov => b
  | .bic => x &&& ~~~b
  | .mvn => ~~~b

/-- The C flag of each operation: the shifter carry-out for the logical class; for a sum, whether it reaches 2^32;
for a difference, whether there is no borrow (R303, R304, R322 to R327). -/
def aluCarry (op : AluOp) (x b : Word) (c shc : Bool) : Bool :=
  match op with
  | .and | .tst | .eor | .teq | .orr | .mov | .bic | .mvn => shc
  | .sub | .cmp => decide (b.toNat ≤ x.toNat)
  | .rsb => decide (x.toNat ≤ b.toNat)
  | .add | .cmn => decide (2 ^ 32 ≤ x.toNat + b.toNat)
  | .adc => decide (2 ^ 32 ≤ x.toNat + b.toNat + (carryWord c).toNat)
  | .sbc => decide (b.toNat + 1 ≤ x.toNat + (carryWord c).toNat)
  | .rsc => decide (x.toNat + 1 ≤ b.toNat + (carryWord c).toNat)

/-- Whether an exact signed result is outside -2^31 to 2^31 - 1 (R304). -/
def signedOverflow (r : Int) : Bool := decide (r < -2147483648 ∨ 2147483647 < r)

/-- The V flag of each operation: unaffected by the logical class; for the arithmetic class, signed overflow of the
exact result (R303, R304). -/
def aluOverflow (op : AluOp) (x b : Word) (c v : Bool) : Bool :=
  match op with
  | .and | .tst | .eor | .teq | .orr | .mov | .bic | .mvn => v
  | .sub | .cmp => signedOverflow (x.toInt - b.toInt)
  | .rsb => signedOverflow (b.toInt - x.toInt)
  | .add | .cmn => signedOverflow (x.toInt + b.toInt)
  | .adc => signedOverflow (x.toInt + b.toInt + (carryWord c).toNat)
  | .sbc => signedOverflow (x.toInt - b.toInt + (carryWord c).toNat - 1)
  | .rsc => signedOverflow (b.toInt - x.toInt + (carryWord c).toNat - 1)

/-- The CPSR after a flag-setting operation: N is bit 31 of the result, Z whether it is zero; I, F and the mode stay
(R303). -/
def aluFlags (op : AluOp) (p : Cpsr) (x b : Word) (shc : Bool) : Cpsr :=
  let r := aluResult op x b p.c
  ⟨r.msb, r == 0#32, aluCarry op x b p.c shc, aluOverflow op x b p.c p.v, p.i, p.f, p.mode⟩

/-! ### The shapes of next states that several statements share -/

/-- A byte address outside the bus word that holds `pa`. -/
def outsideWord (pa : Word) (a : Nat) : Prop := a < (wordAddr pa).toNat ∨ (wordAddr pa).toNat + 4 ≤ a

/-- The registers after the base write-back of a transfer (R383, R465). -/
def State.movedBase (s : State) (rn : RegNum) (t : TransferAddr) : Vector Word 30 :=
  if t.wb then s.regs.set (phys s.cpsr.mode rn) t.moved else s.regs

/-- The state after a load of `v` into `rd`: the base first, then the loaded value, which wins where the registers are
the same; Rd = R15 is a jump (R384, R385, R390). -/
def State.afterLoad (s : State) (rn rd : RegNum) (t : TransferAddr) (v : Word) : State :=
  if rd = 15#4 then { s with regs := s.movedBase rn t, pc := wordAddr v, prefetch := [] }
  else { s with regs := (s.movedBase rn t).set (phys s.cpsr.mode rd) v, pc := s.pc + 4#32 }

/-- `t` is the state after a data abort taken in `u` whose registers were `regs`: FSR and FAR describe the access, R14
and the SPSR of Abort mode hold the old pc + 8 and CPSR, nothing else changed (R201, R511, R525). -/
def AbortTaken (u : State) (regs : Vector Word 30) (f : MemFault) (va : Word) (t : State) : Prop :=
  ∃ x : Word, t = { u with
    regs := regs.set 27 (u.pc + 8#32)
    spsrAbt := saveCpsr u.cpsr
    cpsr := { u.cpsr with mode := .abt, i := true }
    pc := 0x00000010#32
    prefetch := []
    waiting := none
    fsr := f.fsr x
    far := va
    draws := u.draws + 1 }

/-- The state after an undefined instruction trap taken in `s` (R455, R511, R534). -/
def State.undefinedTaken (s : State) : State :=
  { s with
    regs := s.regs.set 29 (s.pc + 4#32)
    spsrUnd := saveCpsr s.cpsr
    cpsr := { s.cpsr with mode := .und, i := true }
    pc := 0x00000004#32
    prefetch := []
    waiting := none }

/-- The outcome of a data-processing operation with Rd = R15 and S set, of result `v`: the jump with the SPSR of the
current mode copied to the CPSR; refused in User mode and where the SPSR holds no mode (R52, R319). -/
def State.returnOutcome (s : State) (v : Word) : Result :=
  match s.spsrOf s.cpsr.mode with
  | none => .refused .spsrInUser
  | some p =>
    match modeOfBits p.m with
    | none => .refused .invalidMode
    | some m => .next { s with pc := wordAddr v, prefetch := [], cpsr := ⟨p.n, p.z, p.c, p.v, p.i, p.f, m⟩ }

/-- How many registers a list names (R411). -/
def listSize (list : BitVec 16) : Nat := ((List.range 16).filter fun i => list.getLsbD i).length

/-- How many registers below R`r` a list names: the place of R`r` in the run of transfers (R411). -/
def listRank (list : BitVec 16) (r : RegNum) : Nat := ((List.range r.toNat).filter fun i => list.getLsbD i).length

/-- The address at which a block transfer moves R`r`, from the first address on (R411). -/
def slotAddr (first : Word) (list : BitVec 16) (r : RegNum) : Word := first + BitVec.ofNat 32 (4 * listRank list r)

/-- What translation gives for an address that an entry covers, in the state `u` it leaves: the entry's base and
attributes where the domain and the permissions allow the access, else the fault (R161, R188 to R190, R195). -/
def State.checkedBy (s : State) (e : TlbEntry) (va : Word) (write : Bool) (u : State) : Access Translated :=
  let access := s.dacr.extractLsb' (2 * e.domain.toNat) 2
  if access = 3#2 ∨ (access = 1#2 ∧ permitted (e.apFor va) s.control.s s.privileged write = true) then
    .done ⟨e.physical va, ⟨e.c, e.b, e.u, some (e.isPage, e.domain)⟩⟩ u
  else if access = 1#2 then .abort (.permission e.isPage e.domain) u
  else .abort (.domain e.isPage e.domain) u

/-- The stores of a run of STM: the state in which each is made, with its address (R416). -/
def stmStates (user : Bool) : Option (RegNum × Word) → List RegNum → Word → Bool → State → List (State × Word)
  | _, [], _, _, _ => []
  | wb, r :: rest, addr, seq, s =>
    let v := if user then s.readUserReg r 12#32 else s.readReg .listed r 12#32
    (s, addr) :: match s.memWrite addr (.word v) false seq with
      | .done _ s' => stmStates user none rest (addr + 4#32) true (s'.blockWriteBack wb)
      | .abort _ s' => stmStates user none rest (addr + 4#32) true (s'.blockWriteBack wb)
      | .halt _ => []

/-- The stores that STM makes. -/
def State.stmItems (s : State) (a : Bdt) : List (State × Word) :=
  stmStates a.s (if a.w then some (a.rn, (s.bdtSpan a).2) else none) (regList a.list) (s.bdtSpan a).1 false s

/-- The stores of a run of STC: the state in which each is made, with its address (R467). -/
def stcStates (supplied : Nat → Word) : Nat → Nat → Word → State → List (State × Word)
  | 0, _, _, _ => []
  | n + 1, k, addr, s =>
    (s, addr) :: match s.memWrite addr (.word (supplied k)) false (decide (0 < k)) with
      | .done _ s' => stcStates supplied n (k + 1) (addr + 4#32) s'
      | .abort _ _ => []
      | .halt _ => []

/-- The stores that STC makes: none where no coprocessor accepts it. -/
def State.stcItems (s : State) (a : Cdt) : List (State × Word) :=
  match s.coprocTape with
  | .accept n data :: _ =>
    stcStates (s.suppliedWord data) (max 1 n) 0 (s.cdtAddr a).addr (s.popAnswer.sendCoproc (encode (.stc a)) [])
  | _ => []

end Sys2Proof.Machine
end

