-- ==== Sys2Proof/Certificates/Slice0/Obligations.lean ====
section
/-! DEFINITION. The statements for the provers. Each docstring names the rules of spec/ it formalises. -/

open Sys2Proof Sys2Proof.Machine

/-! ### Encoding -/

/-- R222 to R236, R250: every well-formed instruction's word, laid out in its four lanes, decodes to it and to nothing
else; the bytes after it are left. The encodings the source's figures lost are the spec's PRESUMED ones (log entry
24). -/
def Obligations.EncodeThenDecode : Prop :=
  ∀ (i : Instr) (rest : List Byte), i.wellFormed = true → decode (lanesOfWord (encode i) ++ rest) = .ok (i, rest)

/-- R222 to R236, R250: a word that decodes has one meaning, is that instruction's word, and the instruction is
well-formed (log entry 24 as above). -/
def Obligations.DecodeThenEncode : Prop :=
  ∀ (w : Word) (i : Instr), decodeWord w = .ok i → i.wellFormed = true ∧ encode i = w

/-- Words of spec/95_test_vectors.md with the instructions they stand for (S1, S5, S8, S10, S11, S14, S16, S18, S19,
S20, S21, S22, S23 and its section 2.11). -/
def Obligations.SpecWordsDecode : Prop :=
  decodeWord 0xEAFFFFFE#32 = .ok (.b ⟨.al, 0xFFFFFE#24⟩)
  ∧ decodeWord 0xE2911001#32 = .ok (.addImm ⟨.al, true, 1#4, 1#4, 0#4, 1#8⟩)
  ∧ decodeWord 0xE0454237#32 = .ok (.subRegShift ⟨.al, false, 5#4, 4#4, 2#4, .lsr, 7#4⟩)
  ∧ decodeWord 0xE129F000#32 = .ok (.msr ⟨.al, false, 0#4⟩)
  ∧ decodeWord 0xE328F20F#32 = .ok (.msrFlgImm ⟨.al, false, 2#4, 0x0F#8⟩)
  ∧ decodeWord 0x00314392#32 = .ok (.mla ⟨.eq, true, 1#4, 4#4, 3#4, 2#4⟩)
  ∧ decodeWord 0xE7921103#32 = .ok (.ldrReg ⟨.al, true, true, false, 2#4, 1#4, 2#5, .lsl, 3#4⟩)
  ∧ decodeWord 0xE8BD0007#32 = .ok (.ldm ⟨.al, false, true, false, true, 13#4, 0x0007#16⟩)
  ∧ decodeWord 0xE1442093#32 = .ok (.swpb ⟨.al, 4#4, 2#4, 3#4⟩)
  ∧ decodeWord 0x1F000000#32 = .ok (.swi ⟨.ne, 0#24⟩)
  ∧ decodeWord 0xEEA21103#32 = .ok (.cdp ⟨.al, 10#4, 2#4, 1#4, 1#4, 0#3, 3#4⟩)
  ∧ decodeWord 0x0DE53206#32 = .ok (.stc ⟨.eq, true, true, true, true, 5#4, 3#4, 2#4, 6#8⟩)
  ∧ decodeWord 0xEEB53216#32 = .ok (.mrc ⟨.al, 5#3, 5#4, 3#4, 2#4, 0#3, 6#4⟩)
  ∧ decodeWord 0xEE150F10#32 = .ok (.mrcFsr ⟨.al, 0#3, 0#4, 0#3, 0#4⟩)
  ∧ decodeWord 0xE6000010#32 = .ok (.undefined ⟨.al, 0#20, 0#4⟩)

/-- R257: the words that are no instruction are exactly those of its cases (a) and (b). The model's choice in case (b):
which words are PSR transfers rests on the four masks of R226, which are general knowledge and PRESUMED (log entry 24).
-/
def Obligations.UnallocatedWords : Prop :=
  ∀ w : Word, (∃ r, decodeWord w = .error r) ↔
    (field w 25 3 = 0b000#3 ∧ wbit w 7 = true ∧ wbit w 4 = true ∧
      (field w 5 2 ≠ 0b00#2 ∨ field w 22 6 = 0b000001#6 ∨ field w 23 5 = 0b00001#5
        ∨ (field w 23 5 = 0b00010#5 ∧ (field w 20 2 ≠ 0b00#2 ∨ field w 8 4 ≠ 0b0000#4))
        ∨ field w 23 5 = 0b00011#5))
    ∨ (((field w 25 3 = 0b000#3 ∧ ¬(wbit w 7 = true ∧ wbit w 4 = true)) ∨ field w 25 3 = 0b001#3)
      ∧ field w 23 2 = 0b10#2 ∧ wbit w 20 = false
      ∧ w &&& 0x0FBF0FFF#32 ≠ 0x010F0000#32 ∧ w &&& 0x0FBFFFF0#32 ≠ 0x0129F000#32
      ∧ w &&& 0x0FBFFFF0#32 ≠ 0x0128F000#32 ∧ w &&& 0x0FBFF000#32 ≠ 0x0328F000#32)

/-! ### The step -/

/-- R544, R598: where no reset or interrupt is taken at the boundary, the step runs the instruction that was fetched
at `pc`; `draws` and `hazard` are the model's counters (log entries 14 and 23). A word that is no instruction is
refused where its condition passes and skipped where it fails (R257). R462 (log entry 38): an instruction that waits
for its coprocessor is run again as it was, with no fetch. R75, R112, R544: with the memory system as it is after
reset, nothing prefetched and no input, the bus word at `pc` is the instruction that runs, and the two words after it
have been read. -/
def Obligations.StepRunsTheInstruction : Prop :=
  let ended : State → State := fun t =>
    { t with draws := t.draws + 1, hazard := if t.waiting.isSome then t.hazard else t.hazard - 1 }
  let runs : State → Instr → State → Prop := fun s i s' =>
    (∀ t, exec i s' = .next t → step s = .next (ended t)) ∧ (∀ r, exec i s' = .refused r → step s = .refused r)
  (∀ (s s2 : State), s.nextInputs.reset = false → (s.nextInputs.fiq = true → s.cpsr.f = true)
    → (s.nextInputs.irq = true → s.cpsr.i = true)
    → State.drainSome { s with inputs := s.inputs.tail, mem := applyDma s.nextInputs.dma s.mem } = .done () s2 →
    (∀ (s3 : State) (f : Fetched) (w : Word), s.waiting = none → s2.fetchStage = .done f s3 → f.word = some w →
      (∀ i, decodeWord w = .ok i → runs s i s3)
      ∧ (∀ r, decodeWord w = .error r →
        step s = if condPassed (condOf w) s3.cpsr then .refused (.unallocated r)
          else .next (ended { s3 with pc := s3.pc + 4#32 })))
    ∧ (∀ (w : Word) (i : Instr), s.waiting = some w → decodeWord w = .ok i → runs s i { s2 with waiting := none }))
  ∧ (∀ (s : State) (i : Instr), Flat s → s.prefetch = [] → s.waiting = none → s.inputs = [] →
    decodeWord (Memory.readWord s.mem s.pc) = .ok i →
    runs s i { s with prefetch :=
      [⟨some (Memory.readWord s.mem (s.pc + 4#32)), s.control, s.privileged⟩,
        ⟨some (Memory.readWord s.mem (s.pc + 8#32)), s.control, s.privileged⟩] })

/-- R75, R359 and row 39 of spec/93_implementation_defined.md: a word already fetched is run as it was fetched, or as a
later fetch would have brought it, under the privilege of its own fetch and under the control register of that fetch or,
only where the MMU has been switched on or off since, the one now in force; either way nothing changes but buffered
writes performed. The model's choice: which of these runs is free, no other change of the control register opens the
window, and R75's general rule is decision D7 of the spec (log entry 9). -/
def Obligations.PrefetchedWordsRun : Prop :=
  ∀ (s : State) (k : Nat) (old : Fetched), s.prefetch[k]? = some old →
    let va := s.pc + BitVec.ofNat 32 (4 * k)
    let fetching : Control → State := fun c => { s with
      control := c
      cpsr := { s.cpsr with mode := if old.privileged then .svc else .usr }
      busTape := [] }
    ∃ f t, s.fetchSlot k = .done f t ∧ f.privileged = old.privileged
      ∧ (f.control = old.control ∨ (f.control = s.control ∧ old.control.m ≠ s.control.m))
      ∧ AccessFrame s t ∧ t.tlb = s.tlb ∧ t.idc = s.idc ∧ t.busTape = s.busTape
      ∧ ((f = old ∧ t = s)
        ∨ (∃ w u, (fetching f.control).readBusWord va .fetch = .done w u ∧ f.word = some w ∧ t.mem = u.mem)
        ∨ (∃ e u, (fetching f.control).readBusWord va .fetch = .abort e u ∧ f.word = none ∧ t.mem = u.mem))

/-- R520, R521, R540, R541, R544: FIQ before IRQ, each only where its disable bit is clear; the words of other bus
masters are written first (log entry 36); IRQ's "plus 4" is log entry 35. -/
def Obligations.InterruptsAreTaken : Prop :=
  ∀ s : State, s.nextInputs.reset = false →
    (s.nextInputs.fiq = true → s.cpsr.f = false →
      step s = .next { s with
        regs := s.regs.set 21 (s.pc + 4#32)
        spsrFiq := saveCpsr s.cpsr
        cpsr := { s.cpsr with mode := .fiq, i := true, f := true }
        pc := 0x0000001C#32
        prefetch := []
        waiting := none
        inputs := s.inputs.tail
        mem := applyDma s.nextInputs.dma s.mem
        draws := s.draws + 1 })
    ∧ (s.nextInputs.irq = true → s.cpsr.i = false → (s.nextInputs.fiq = false ∨ s.cpsr.f = true) →
      step s = .next { s with
        regs := s.regs.set 23 (s.pc + 4#32)
        spsrIrq := saveCpsr s.cpsr
        cpsr := { s.cpsr with mode := .irq, i := true }
        pc := 0x00000018#32
        prefetch := []
        waiting := none
        inputs := s.inputs.tail
        mem := applyDma s.nextInputs.dma s.mem
        draws := s.draws + 1 })

/-- R570, R80: what a reset of a running machine forces; every other register, flag and the TLB hold free values. The words
of other bus masters at that boundary are in memory (R599), and after them the words of some number of the oldest buffered
writes, of which one that is externally aborted may be missing (R571). R571: a reset inside a bus transfer ends the
instruction with the same state; memory then holds what it held, and for a write transfer the written word or what was
there, under LOCK with the words of other bus masters after it. The model's choices are log entries 31, 33 and 42. -/
def Obligations.ResetForces : Prop :=
  (∀ s : State, s.nextInputs.reset = true →
    ∃ t, step s = .next t ∧ ResetForced t ∧ t.hazard = 0 ∧ t.inputs = s.inputs.tail
      ∧ t.abortRanges = s.abortRanges ∧ t.busTape = s.busTape ∧ t.coprocTape = s.coprocTape
      ∧ t.coprocSent = s.coprocSent
      ∧ (∃ (n : Nat) (lands : Nat → Bool),
        (∀ (k : Nat) (e : WbEntry), s.writeBuffer[k]? = some e → s.aborts e.addr = false → lands k = true)
        ∧ t.mem = settleWhere lands 0 (s.writeBuffer.take n) (applyDma s.nextInputs.dma s.mem)))
  ∧ (∀ (s : State) (pa : Word), s.busAnswer.reset = true →
    let m := applyDma s.busAnswer.dma s.mem
    (∃ t, s.readTransfer pa = .halt (.next t) ∧ ResetForced t ∧ t.mem = m)
    ∧ (∀ w, ∃ t, s.writeTransfer pa w false = .halt (.next t) ∧ ResetForced t
      ∧ (t.mem = m ∨ t.mem = w.onMemory m pa))
    ∧ ∀ w, ∃ t, s.writeTransfer pa w true = .halt (.next t) ∧ ResetForced t
      ∧ (t.mem = m ∨ t.mem = applyDma s.busAnswer.dma (w.onMemory s.mem pa)))

/-- R524, R525, R201, R511: an aborted fetch at `pc` is the prefetch abort when the instruction would run; FSR and FAR
are not written. R76, R110, R203: with the MMU off and nothing buffered or prefetched, a `pc` whose bus word answers
ABORT takes the prefetch abort. -/
def Obligations.PrefetchAbort : Prop :=
  (∀ (s s2 s3 : State) (f : Fetched),
    s.nextInputs.reset = false → (s.nextInputs.fiq = true → s.cpsr.f = true)
    → (s.nextInputs.irq = true → s.cpsr.i = true)
    → State.drainSome { s with inputs := s.inputs.tail, mem := applyDma s.nextInputs.dma s.mem } = .done () s2
    → s.waiting = none
    → s2.fetchStage = .done f s3 → f.word = none →
    s3.fsr = s.fsr ∧ s3.far = s.far ∧ s3.pc = s.pc ∧ s3.cpsr = s.cpsr ∧ s3.regs = s.regs ∧
    step s = .next { s3 with
      regs := s3.regs.set 27 (s3.pc + 4#32)
      spsrAbt := saveCpsr s3.cpsr
      cpsr := { s3.cpsr with mode := .abt, i := true }
      pc := 0x0000000C#32
      prefetch := []
      waiting := none
      draws := s3.draws + 1 })
  ∧ (∀ s : State, Flat { s with abortRanges := [] } → s.prefetch = [] → s.waiting = none → s.inputs = [] → s.aborts s.pc = true →
    step s = .next { s with
      regs := s.regs.set 27 (s.pc + 4#32)
      spsrAbt := saveCpsr s.cpsr
      cpsr := { s.cpsr with mode := .abt, i := true }
      pc := 0x0000000C#32
      prefetch := []
      waiting := none
      draws := s.draws + 1 })

/-! ### Conditions and registers -/

/-- R281: the sixteen codes of bits 31:28, each on N, Z, C and V; codes that differ in the last bit are complements. -/
def Obligations.ConditionTable : Prop :=
  ∀ p : Cpsr,
    let passed : BitVec 4 → Prop := fun c => condPassed (Cond.ofBits c) p = true
    (passed 0b0000#4 ↔ p.z = true) ∧ (passed 0b0001#4 ↔ p.z = false)
    ∧ (passed 0b0010#4 ↔ p.c = true) ∧ (passed 0b0011#4 ↔ p.c = false)
    ∧ (passed 0b0100#4 ↔ p.n = true) ∧ (passed 0b0101#4 ↔ p.n = false)
    ∧ (passed 0b0110#4 ↔ p.v = true) ∧ (passed 0b0111#4 ↔ p.v = false)
    ∧ (passed 0b1000#4 ↔ p.c = true ∧ p.z = false) ∧ (passed 0b1001#4 ↔ p.c = false ∨ p.z = true)
    ∧ (passed 0b1010#4 ↔ p.n = p.v) ∧ (passed 0b1011#4 ↔ p.n ≠ p.v)
    ∧ (passed 0b1100#4 ↔ p.z = false ∧ p.n = p.v) ∧ (passed 0b1101#4 ↔ p.z = true ∨ p.n ≠ p.v)
    ∧ passed 0b1110#4 ∧ ¬passed 0b1111#4
    ∧ (∀ w : Word, condOf w = Cond.ofBits (w.extractLsb' 28 4))
    ∧ ∀ c : BitVec 4, passed (c ^^^ 1#4) ↔ ¬passed c

/-- R280, R256: an instruction whose condition fails only moves the pc on by 4. -/
def Obligations.FailedConditionSkips : Prop :=
  ∀ (i : Instr) (s : State), condPassed (instrCond i) s.cpsr = false →
    exec i s = .next { s with pc := s.pc + 4#32 }

/-- R32, R33: two modes share R`r` exactly where the spec gives them one register: R0 to R7 always, R8 to R12 unless
one of the two modes is FIQ, R13 and R14 never. A write in one bank is read back there and in the banks that share it.
R44: an SPSR write reaches the SPSR of that mode and no other; User mode has none. -/
def Obligations.BankSelection : Prop :=
  (∀ (m m' : Mode) (r r' : RegNum), r ≠ 15#4 → r' ≠ 15#4 →
    (phys m r = phys m' r' ↔
      r = r' ∧ (m = m' ∨ r.toNat < 8 ∨ (r.toNat < 13 ∧ m ≠ .fiq ∧ m' ≠ .fiq)))
    ∧ ∀ (s : State) (v : Word),
      (s.setRegIn m r v).regIn m' r'
        = if r = r' ∧ (m = m' ∨ r.toNat < 8 ∨ (r.toNat < 13 ∧ m ≠ .fiq ∧ m' ≠ .fiq)) then v else s.regIn m' r')
  ∧ (∀ (s : State) (m m' : Mode) (p : Psr),
    s.spsrOf .usr = none ∧ s.setSpsr .usr p = s
    ∧ (m ≠ .usr → (s.setSpsr m p).spsrOf m' = if m' = m then some p else s.spsrOf m')
    ∧ (s.setSpsr m p).regs = s.regs ∧ (s.setSpsr m p).cpsr = s.cpsr ∧ (s.setSpsr m p).mem = s.mem)

/-- R40, R590: reading a register number: R15 is the pc and the stated amount ahead, another number its register in the
current bank, except a banked number right after a User-bank LDM, which nothing is said of (log entry 23). R35, R421,
R590: a User-bank store reads the User register in every mode and with no such hazard. -/
def Obligations.RegisterReads : Prop :=
  ∀ (s : State) (role : Role) (r : RegNum) (ahead : Word),
    (r = 15#4 → s.readReg role r ahead = s.pc + ahead)
    ∧ (r ≠ 15#4 → (s.hazard ≠ 1 ∨ phys s.cpsr.mode r = phys .usr r) →
      s.readReg role r ahead = s.regs[phys s.cpsr.mode r])
    ∧ s.readUserReg r ahead = (if r = 15#4 then s.pc + ahead else s.regs[phys .usr r])

/-! ### Data processing -/

/-- R300 to R304, R318, R320 to R327, R332 to R335: the twelve operations that write a result, with an immediate
operand 2 and Rd other than R15 (DataProcessingToPc is about R15). The same with a
register shifted by an amount in the instruction. The same with a register shifted by the bottom byte of Rs, R15
reading as `pc + 12`; Rs = R15 is refused (R307, OperandsThatAreRefused). The carry of an immediate operand is log
entry 24. -/
def Obligations.DataProcessingResults : Prop :=
  (∀ (op : AluOp) (a : DpImm) (s : State),
    aluWrites op = true → condPassed a.cond s.cpsr = true → a.rd ≠ 15#4 →
    let x := s.readReg .rn a.rn 8#32
    let b := operandImm a.rotate a.imm s.cpsr.c
    exec (dpImm op a) s = .next { s with
      regs := s.regs.set (phys s.cpsr.mode a.rd) (aluResult op x b.value s.cpsr.c)
      cpsr := if a.s then aluFlags op s.cpsr x b.value b.carry else s.cpsr
      pc := s.pc + 4#32 })
  ∧ (∀ (op : AluOp) (a : DpShift) (s : State),
    aluWrites op = true → condPassed a.cond s.cpsr = true → a.rd ≠ 15#4 →
    let x := s.readReg .rn a.rn 8#32
    let b := shiftImm (s.readReg .rm a.rm 8#32) a.type a.amount s.cpsr.c
    exec (dpShift op a) s = .next { s with
      regs := s.regs.set (phys s.cpsr.mode a.rd) (aluResult op x b.value s.cpsr.c)
      cpsr := if a.s then aluFlags op s.cpsr x b.value b.carry else s.cpsr
      pc := s.pc + 4#32 })
  ∧ (∀ (op : AluOp) (a : DpRegShift) (s : State),
    aluWrites op = true → condPassed a.cond s.cpsr = true → a.rd ≠ 15#4 → a.rs ≠ 15#4 →
    let x := s.readReg .rn a.rn 12#32
    let b := shiftReg (s.readReg .rm a.rm 12#32) a.type (field (s.readReg .rs a.rs 12#32) 0 8) s.cpsr.c
    exec (dpRegShift op a) s = .next { s with
      regs := s.regs.set (phys s.cpsr.mode a.rd) (aluResult op x b.value s.cpsr.c)
      cpsr := if a.s then aluFlags op s.cpsr x b.value b.carry else s.cpsr
      pc := s.pc + 4#32 })

/-- R328 to R331: TST, TEQ, CMP and CMN write the flags and no register, whatever their S bit was written as; the Rd
field is ignored where it is not 15. R336: a test with Rd = 15 copies the SPSR of the current mode to the CPSR in a
privileged mode and does nothing in User mode; R15 is not written. The model's choices: that TST, CMP and CMN do this too
(D23, log entry 28), that an SPSR which holds no mode is refused (D9 on R52, log entry 16), and the carry of an immediate
operand (D22, log entry 24). -/
def Obligations.TestsWriteFlags : Prop :=
  (∀ (op : AluOp) (s : State), aluWrites op = false →
    (∀ a : DpImm, condPassed a.cond s.cpsr = true → a.rd ≠ 15#4 →
      let b := operandImm a.rotate a.imm s.cpsr.c
      exec (dpImm op a) s = .next { s with
        cpsr := aluFlags op s.cpsr (s.readReg .rn a.rn 8#32) b.value b.carry, pc := s.pc + 4#32 })
    ∧ (∀ a : DpShift, condPassed a.cond s.cpsr = true → a.rd ≠ 15#4 →
      let b := shiftImm (s.readReg .rm a.rm 8#32) a.type a.amount s.cpsr.c
      exec (dpShift op a) s = .next { s with
        cpsr := aluFlags op s.cpsr (s.readReg .rn a.rn 8#32) b.value b.carry, pc := s.pc + 4#32 })
    ∧ (∀ a : DpRegShift, condPassed a.cond s.cpsr = true → a.rd ≠ 15#4 → a.rs ≠ 15#4 →
      let b := shiftReg (s.readReg .rm a.rm 12#32) a.type (field (s.readReg .rs a.rs 12#32) 0 8) s.cpsr.c
      exec (dpRegShift op a) s = .next { s with
        cpsr := aluFlags op s.cpsr (s.readReg .rn a.rn 12#32) b.value b.carry, pc := s.pc + 4#32 }))
  ∧ (∀ (op : AluOp) (s : State) (i : Instr), aluWrites op = false →
    ((∃ a : DpImm, i = dpImm op a ∧ condPassed a.cond s.cpsr = true ∧ a.rd = 15#4)
      ∨ (∃ a : DpShift, i = dpShift op a ∧ condPassed a.cond s.cpsr = true ∧ a.rd = 15#4)
      ∨ (∃ a : DpRegShift, i = dpRegShift op a ∧ condPassed a.cond s.cpsr = true ∧ a.rd = 15#4 ∧ a.rs ≠ 15#4)) →
    (s.cpsr.mode = .usr → exec i s = .next { s with pc := s.pc + 4#32 })
    ∧ (∀ p, s.spsrOf s.cpsr.mode = some p →
      (∀ m, modeOfBits p.m = some m →
        exec i s = .next { s with cpsr := ⟨p.n, p.z, p.c, p.v, p.i, p.f, m⟩, pc := s.pc + 4#32 })
      ∧ (modeOfBits p.m = none → exec i s = .refused .invalidMode)))

/-- R318, R41: with Rd = R15 and S clear the result is a jump (bits 1:0 dropped, log entry 25) and the CPSR stays.
R319, R52: with Rd = R15 and S set the result goes to the pc and the SPSR of the current mode to the CPSR; refused in
User mode, and where the SPSR holds no mode (log entry 16). -/
def Obligations.DataProcessingToPc : Prop :=
  (∀ (op : AluOp) (s : State), aluWrites op = true →
    (∀ a : DpImm, condPassed a.cond s.cpsr = true → a.rd = 15#4 → a.s = false →
      exec (dpImm op a) s = .next { s with
        pc := wordAddr (aluResult op (s.readReg .rn a.rn 8#32) (operandImm a.rotate a.imm s.cpsr.c).value s.cpsr.c)
        prefetch := [] })
    ∧ (∀ a : DpShift, condPassed a.cond s.cpsr = true → a.rd = 15#4 → a.s = false →
      exec (dpShift op a) s = .next { s with
        pc := wordAddr (aluResult op (s.readReg .rn a.rn 8#32)
          (shiftImm (s.readReg .rm a.rm 8#32) a.type a.amount s.cpsr.c).value s.cpsr.c)
        prefetch := [] })
    ∧ (∀ a : DpRegShift, condPassed a.cond s.cpsr = true → a.rd = 15#4 → a.s = false → a.rs ≠ 15#4 →
      exec (dpRegShift op a) s = .next { s with
        pc := wordAddr (aluResult op (s.readReg .rn a.rn 12#32)
          (shiftReg (s.readReg .rm a.rm 12#32) a.type (field (s.readReg .rs a.rs 12#32) 0 8) s.cpsr.c).value s.cpsr.c)
        prefetch := [] }))
  ∧ (∀ (op : AluOp) (s : State), aluWrites op = true →
    (∀ a : DpImm, condPassed a.cond s.cpsr = true → a.rd = 15#4 → a.s = true →
      exec (dpImm op a) s = s.returnOutcome
        (aluResult op (s.readReg .rn a.rn 8#32) (operandImm a.rotate a.imm s.cpsr.c).value s.cpsr.c))
    ∧ (∀ a : DpShift, condPassed a.cond s.cpsr = true → a.rd = 15#4 → a.s = true →
      exec (dpShift op a) s = s.returnOutcome
        (aluResult op (s.readReg .rn a.rn 8#32)
          (shiftImm (s.readReg .rm a.rm 8#32) a.type a.amount s.cpsr.c).value s.cpsr.c))
    ∧ (∀ a : DpRegShift, condPassed a.cond s.cpsr = true → a.rd = 15#4 → a.s = true → a.rs ≠ 15#4 →
      exec (dpRegShift op a) s = s.returnOutcome
        (aluResult op (s.readReg .rn a.rn 12#32)
          (shiftReg (s.readReg .rm a.rm 12#32) a.type (field (s.readReg .rs a.rs 12#32) 0 8) s.cpsr.c).value
          s.cpsr.c)))

/-- R307, R357, R373, R445: the operands that "shall not be" used are refused by name where the condition
passes. -/
def Obligations.OperandsThatAreRefused : Prop :=
  ∀ s : State,
    (∀ (op : AluOp) (a : DpRegShift), condPassed a.cond s.cpsr = true → a.rs = 15#4 →
      exec (dpRegShift op a) s = .refused .pcOperand)
    ∧ (∀ a : MrsArgs, condPassed a.cond s.cpsr = true → a.rd = 15#4 → exec (.mrs a) s = .refused .pcOperand)
    ∧ (∀ a : MrsArgs, condPassed a.cond s.cpsr = true → a.rd ≠ 15#4 → a.spsr = true → s.cpsr.mode = .usr →
      exec (.mrs a) s = .refused .spsrInUser)
    ∧ (∀ a : MsrRegArgs, condPassed a.cond s.cpsr = true → a.rm = 15#4 →
      exec (.msr a) s = .refused .pcOperand ∧ exec (.msrFlgReg a) s = .refused .pcOperand)
    ∧ (∀ a : MsrRegArgs, condPassed a.cond s.cpsr = true → a.rm ≠ 15#4 → a.spsr = true → s.cpsr.mode = .usr →
      exec (.msr a) s = .refused .spsrInUser ∧ exec (.msrFlgReg a) s = .refused .spsrInUser)
    ∧ (∀ a : MsrImmArgs, condPassed a.cond s.cpsr = true → a.spsr = true → s.cpsr.mode = .usr →
      exec (.msrFlgImm a) s = .refused .spsrInUser)
    ∧ (∀ a : MulArgs, condPassed a.cond s.cpsr = true →
      (a.rd = 15#4 ∨ a.rm = 15#4 ∨ a.rs = 15#4 → exec (.mul a) s = .refused .pcOperand)
      ∧ (a.rd = 15#4 ∨ a.rm = 15#4 ∨ a.rs = 15#4 ∨ a.rn = 15#4 → exec (.mla a) s = .refused .pcOperand))
    ∧ (∀ a : SwpArgs, condPassed a.cond s.cpsr = true → (a.rd = 15#4 ∨ a.rm = 15#4 ∨ a.rn = 15#4) →
      exec (.swp a) s = .refused .pcOperand ∧ exec (.swpb a) s = .refused .pcOperand)

/-- R305, R309 (the reading of the codes is log entry 24): a shift by an amount in the instruction, as arithmetic on
the operand and as the bit that becomes the carry. The amount 0 is LSL #0, LSR #32, ASR #32 and RRX. R240, R310: the
immediate is the byte rotated right by twice the rotate field; its carry (C for a rotate of 0, else bit 31 of the
value) is the model's choice, log entry 24. -/
def Obligations.ShiftByInstruction : Prop :=
  (∀ (v : Word) (n : BitVec 5) (cin : Bool),
    (shiftImm v .lsl n cin).value.toNat = v.toNat * 2 ^ n.toNat % 2 ^ 32
    ∧ (shiftImm v .lsl n cin).carry = (if n = 0#5 then cin else v.getLsbD (32 - n.toNat))
    ∧ (n ≠ 0#5 →
      (shiftImm v .lsr n cin).value.toNat = v.toNat / 2 ^ n.toNat
      ∧ (shiftImm v .lsr n cin).carry = v.getLsbD (n.toNat - 1)
      ∧ (shiftImm v .asr n cin).value.toInt = v.toInt / 2 ^ n.toNat
      ∧ (shiftImm v .asr n cin).carry = v.getLsbD (n.toNat - 1)
      ∧ (∀ i, i < 32 → (shiftImm v .ror n cin).value.getLsbD i = v.getLsbD ((i + n.toNat) % 32))
      ∧ (shiftImm v .ror n cin).carry = v.getLsbD (n.toNat - 1))
    ∧ (n = 0#5 →
      (shiftImm v .lsr n cin).value = 0#32 ∧ (shiftImm v .lsr n cin).carry = v.msb
      ∧ (shiftImm v .asr n cin).value.toInt = (if v.msb then -1 else 0) ∧ (shiftImm v .asr n cin).carry = v.msb
      ∧ (shiftImm v .ror n cin).value.getLsbD 31 = cin
      ∧ (∀ i, i < 31 → (shiftImm v .ror n cin).value.getLsbD i = v.getLsbD (i + 1))
      ∧ (shiftImm v .ror n cin).carry = v.getLsbD 0))
  ∧ (∀ (rotate : BitVec 4) (imm : Byte) (cin : Bool),
    (∀ i, i < 32 → (operandImm rotate imm cin).value.getLsbD i = imm.getLsbD ((i + 2 * rotate.toNat) % 32))
    ∧ (operandImm rotate imm cin).carry = (if rotate = 0#4 then cin else (operandImm rotate imm cin).value.msb))

/-- R306: a shift by the bottom byte of a register, 0 to 255. -/
def Obligations.ShiftByRegister : Prop :=
  ∀ (v : Word) (n : Byte) (cin : Bool),
    (shiftReg v .lsl n cin).value.toNat = v.toNat * 2 ^ n.toNat % 2 ^ 32
    ∧ (shiftReg v .lsr n cin).value.toNat = v.toNat / 2 ^ n.toNat
    ∧ (shiftReg v .asr n cin).value.toInt = v.toInt / 2 ^ n.toNat
    ∧ (∀ i, i < 32 → (shiftReg v .ror n cin).value.getLsbD i = v.getLsbD ((i + n.toNat) % 32))
    ∧ (n = 0#8 → ∀ type, (shiftReg v type n cin).carry = cin)
    ∧ (n ≠ 0#8 →
      (shiftReg v .lsl n cin).carry = (decide (n.toNat ≤ 32) && v.getLsbD (32 - n.toNat))
      ∧ (shiftReg v .lsr n cin).carry = (decide (n.toNat ≤ 32) && v.getLsbD (n.toNat - 1))
      ∧ (shiftReg v .asr n cin).carry = v.getLsbD (min n.toNat 32 - 1)
      ∧ (shiftReg v .ror n cin).carry = v.getLsbD ((n.toNat + 31) % 32))

/-! ### Status registers and multiply -/

/-- R351, R53: MRS gives the stored bits of the CPSR or of the current SPSR; nothing is said of the reserved bits 27:8
and 5 (log entry 15). -/
def Obligations.MrsReadsThePsr : Prop :=
  ∀ (a : MrsArgs) (s : State) (p : Psr), condPassed a.cond s.cpsr = true → a.rd ≠ 15#4 →
    (if a.spsr then s.spsrOf s.cpsr.mode else some (saveCpsr s.cpsr)) = some p →
    ∃ w : Word, exec (.mrs a) s = .next { s with regs := s.regs.set (phys s.cpsr.mode a.rd) w, pc := s.pc + 4#32 }
      ∧ w.getLsbD 31 = p.n ∧ w.getLsbD 30 = p.z ∧ w.getLsbD 29 = p.c ∧ w.getLsbD 28 = p.v
      ∧ w.getLsbD 7 = p.i ∧ w.getLsbD 6 = p.f ∧ w.extractLsb' 0 5 = p.m

/-- R352, R353: MSR to a whole PSR: the CPSR in a privileged mode, its flags alone in User mode, the SPSR of a privileged
mode with any mode bits. The model's choice: a CPSR value whose mode bits are no mode is refused (D9 on R52, log entry
16). R354, R355: MSR to the flag bits, from a
register or a rotated immediate: bits 27:0 of the PSR stay, in every mode. -/
def Obligations.MsrWritesThePsr : Prop :=
  (∀ (a : MsrRegArgs) (s : State), condPassed a.cond s.cpsr = true → a.rm ≠ 15#4 →
    let w := s.readReg .rm a.rm 8#32
    (a.spsr = false → s.cpsr.mode ≠ .usr → ∀ m, modeOfBits (w.extractLsb' 0 5) = some m →
      exec (.msr a) s = .next { s with
        cpsr := ⟨w.getLsbD 31, w.getLsbD 30, w.getLsbD 29, w.getLsbD 28, w.getLsbD 7, w.getLsbD 6, m⟩
        pc := s.pc + 4#32 })
    ∧ (a.spsr = false → s.cpsr.mode ≠ .usr → modeOfBits (w.extractLsb' 0 5) = none →
      exec (.msr a) s = .refused .invalidMode)
    ∧ (a.spsr = false → s.cpsr.mode = .usr →
      exec (.msr a) s = .next { s with
        cpsr := { s.cpsr with n := w.getLsbD 31, z := w.getLsbD 30, c := w.getLsbD 29, v := w.getLsbD 28 }
        pc := s.pc + 4#32 })
    ∧ (a.spsr = true → s.cpsr.mode ≠ .usr →
      exec (.msr a) s = .next { s.setSpsr s.cpsr.mode
        ⟨w.getLsbD 31, w.getLsbD 30, w.getLsbD 29, w.getLsbD 28, w.getLsbD 7, w.getLsbD 6, w.extractLsb' 0 5⟩ with
        pc := s.pc + 4#32 }))
  ∧ (∀ (i : Instr) (spsr : Bool) (w : Word) (s : State),
    ((∃ a : MsrRegArgs, i = .msrFlgReg a ∧ a.spsr = spsr ∧ a.rm ≠ 15#4 ∧ w = s.readReg .rm a.rm 8#32
        ∧ condPassed a.cond s.cpsr = true)
      ∨ (∃ a : MsrImmArgs, i = .msrFlgImm a ∧ a.spsr = spsr ∧ w = rotatedImm a.rotate a.imm
        ∧ condPassed a.cond s.cpsr = true)) →
    (spsr = false →
      exec i s = .next { s with
        cpsr := { s.cpsr with n := w.getLsbD 31, z := w.getLsbD 30, c := w.getLsbD 29, v := w.getLsbD 28 }
        pc := s.pc + 4#32 })
    ∧ (∀ p, spsr = true → s.spsrOf s.cpsr.mode = some p →
      exec i s = .next { s.setSpsr s.cpsr.mode
        { p with n := w.getLsbD 31, z := w.getLsbD 30, c := w.getLsbD 29, v := w.getLsbD 28 } with
        pc := s.pc + 4#32 }))

/-- R371, R373, R374: MUL is the product modulo 2^32, and zero where Rd = Rm; with S, N and Z are those of the result, V
stays and C is a free value. -/
def Obligations.MultiplyResult : Prop :=
  ∀ (a : MulArgs) (s : State), condPassed a.cond s.cpsr = true → a.rd ≠ 15#4 → a.rm ≠ 15#4 → a.rs ≠ 15#4 →
    let x := (s.readReg .rm a.rm 8#32).toNat
    let y := (s.readReg .rs a.rs 8#32).toNat
    let r : Word := if a.rd = a.rm then 0#32 else BitVec.ofNat 32 (x * y)
    ∃ c : Bool, exec (.mul a) s = .next { s with
      regs := s.regs.set (phys s.cpsr.mode a.rd) r
      cpsr := if a.s then { s.cpsr with n := r.msb, z := r == 0#32, c := c } else s.cpsr
      pc := s.pc + 4#32 }

/-- R372, R373, R374: MLA is the product plus Rn modulo 2^32, with S N and Z are those of the result, V stays and C is a
free value; where Rd = Rm the result is a free value, and so are N and Z with S. -/
def Obligations.MultiplyAccumulateResult : Prop :=
  ∀ (a : MulArgs) (s : State), condPassed a.cond s.cpsr = true →
    a.rd ≠ 15#4 → a.rm ≠ 15#4 → a.rs ≠ 15#4 → a.rn ≠ 15#4 →
    ∃ (n z c : Bool) (r : Word),
      (a.rd ≠ a.rm → n = r.msb ∧ z = (r == 0#32)
        ∧ r = BitVec.ofNat 32 ((s.readReg .rm a.rm 8#32).toNat * (s.readReg .rs a.rs 8#32).toNat
          + (s.readReg .rn a.rn 8#32).toNat))
      ∧ exec (.mla a) s = .next { s with
        regs := s.regs.set (phys s.cpsr.mode a.rd) r
        cpsr := if a.s then { s.cpsr with n := n, z := z, c := c } else s.cpsr
        pc := s.pc + 4#32 }

/-! ### Whole-machine rules -/

/-- R353, R426, R484: no instruction executed in User mode changes the mode, I or F, an SPSR, a banked register, the
control register, the translation table base or the domain access control, but by taking an exception to one of three
vectors; or a reset falls inside one of its bus transfers (R571). -/
def Obligations.UserModeIsConfined : Prop :=
  ∀ (i : Instr) (s t : State), s.cpsr.mode = .usr → exec i s = .next t →
    ((∃ a ∈ s.busTape, a.reset = true) ∧ ResetForced t)
    ∨ (t.control = s.control ∧ t.ttb = s.ttb ∧ t.dacr = s.dacr ∧ t.cpsr.f = s.cpsr.f
      ∧ t.spsrFiq = s.spsrFiq ∧ t.spsrIrq = s.spsrIrq
      ∧ ((t.cpsr.mode = .usr ∧ t.cpsr.i = s.cpsr.i ∧ t.spsrSvc = s.spsrSvc ∧ t.spsrAbt = s.spsrAbt
          ∧ t.spsrUnd = s.spsrUnd ∧ t.fsr = s.fsr ∧ t.far = s.far ∧ ∀ k : Fin 30, 15 ≤ k.val → t.regs[k] = s.regs[k])
        ∨ (t.cpsr.i = true
          ∧ ((t.pc = 0x04#32 ∧ t.cpsr.mode = .und) ∨ (t.pc = 0x08#32 ∧ t.cpsr.mode = .svc)
            ∨ (t.pc = 0x10#32 ∧ t.cpsr.mode = .abt)))))

/-- R302, R351, R352, R371, R372, R384, R385, R415, R466, R470, R471, R488: an instruction whose rule gives it no store
leaves every byte of memory as it was, whatever the MMU, cache and write buffer do, while no other bus master writes. The
model's choice: memory is taken with the buffered writes performed, as decision D5 has them (R146, R147; log entry 19). -/
def Obligations.NonStoringKeepMemory : Prop :=
  ∀ (i : Instr) (s t : State), instrStores i = false → s.calm → exec i s = .next t →
    ∀ a : Nat, Memory.read t.settledMem a = Memory.read s.settledMem a

/-- R105, R107, R111, R120, R133, R141, R416, R441, R442, R467, a frame: no byte of memory changes outside the bus words at
the translated addresses of the items that STR, STRB, SWP, SWPB, STM or STC stores, whatever the MMU, cache and write
buffer do, while no other bus master writes (what the items put into their words BufferedWrites says); an access that translation or the alignment check stops writes nothing, and a swap whose read aborts
writes nothing. The items of STM and STC are those of `stmItems` and `stcItems`, each with the state its store is made
in. The model's choices: the word store to an address that is not a multiple of 4 (D4, log entry 13), and memory taken
with the buffered writes performed (D5, log entry 19). -/
def Obligations.StoresReachOnlyTheirWord : Prop :=
  let same : State → State → (Nat → Prop) → Prop := fun s t outside =>
    ∀ b : Nat, outside b → Memory.read t.settledMem b = Memory.read s.settledMem b
  let item : State → State → Word → Bool → Prop := fun s t va word =>
    (∀ tr u, s.translate va true = .done tr u → same s t (outsideWord tr.pa))
    ∧ (∀ f u, s.translate va true = .abort f u → same s t fun _ => True)
    ∧ (word = true → s.misaligned va = true → same s t fun _ => True)
  let outsideAll : List (State × Word) → Nat → Prop := fun items b =>
    ∀ p ∈ items, ∀ tr u, p.1.translate p.2 true = .done tr u → outsideWord tr.pa b
  ∀ s : State, s.calm →
    (∀ (t : State) (va : Word) (w : BusWrite) (swap seq : Bool),
      (s.memWrite va w swap seq = .done () t ∨ ∃ f, s.memWrite va w swap seq = .abort f t) → item s t va w.isWord)
    ∧ (∀ (i : Instr) (t : State) (va : Word) (word : Bool), condPassed (instrCond i) s.cpsr = true →
      ((∃ a, i = (if word then .strImm a else .strbImm a) ∧ va = (s.sdtAddrImm a).addr)
        ∨ (∃ a, i = (if word then .strReg a else .strbReg a) ∧ va = (s.sdtAddrReg a).addr)) →
      exec i s = .next t → item s t va word)
    ∧ (∀ (a : SwpArgs) (t : State), condPassed a.cond s.cpsr = true →
      let va := s.readReg .base a.rn 8#32
      (exec (.swp a) s = .next t →
        (∀ w u, s.readWord va .swap = .done w u → item u t va true ∧ same s u fun _ => True)
        ∧ ∀ f u, s.readWord va .swap = .abort f u → same s t fun _ => True)
      ∧ (exec (.swpb a) s = .next t →
        (∀ b u, s.readByte va .swap = .done b u → item u t va false ∧ same s u fun _ => True)
        ∧ ∀ f u, s.readByte va .swap = .abort f u → same s t fun _ => True))
    ∧ (∀ (a : Bdt) (t : State), exec (.stm a) s = .next t → same s t (outsideAll (s.stmItems a)))
    ∧ (∀ (a : Cdt) (t : State), exec (.stc a) s = .next t → same s t (outsideAll (s.stcItems a)))

/-! ### Single data transfer and swap -/

/-- R382, R383: the transfer address and the moved base of LDR, LDRB, STR and STRB, modulo 2^32. R244, R411: the first
address and the moved base of LDM and STM, with `n` registers, modulo 2^32. R465: the first address and the moved base
of LDC and STC: a word offset, modulo 2^32. -/
def Obligations.TransferAddresses : Prop :=
  (∀ s : State,
    (∀ a : SdtImm,
      let base := s.readReg .base a.rn 8#32
      (s.sdtAddrImm a).moved = (if a.u then base + a.offset.setWidth 32 else base - a.offset.setWidth 32)
      ∧ (s.sdtAddrImm a).addr = (if a.p then (s.sdtAddrImm a).moved else base)
      ∧ (s.sdtAddrImm a).wb = (!a.p || a.w))
    ∧ (∀ a : SdtReg,
      let base := s.readReg .base a.rn 8#32
      let offset := (shiftImm (s.readReg .rm a.rm 8#32) a.type a.amount s.cpsr.c).value
      (s.sdtAddrReg a).moved = (if a.u then base + offset else base - offset)
      ∧ (s.sdtAddrReg a).addr = (if a.p then (s.sdtAddrReg a).moved else base)
      ∧ (s.sdtAddrReg a).wb = (!a.p || a.w)))
  ∧ (∀ (s : State) (a : Bdt),
    let base := s.readReg .base a.rn 8#32
    let size := BitVec.ofNat 32 (4 * listSize a.list)
    (s.bdtSpan a).1 = (match a.u, a.p with
      | true, false => base
      | true, true => base + 4#32
      | false, false => base - size + 4#32
      | false, true => base - size)
    ∧ (s.bdtSpan a).2 = (if a.u then base + size else base - size))
  ∧ (∀ (s : State) (a : Cdt),
    let base := s.readReg .base a.rn 8#32
    let offset := BitVec.ofNat 32 (4 * a.offset.toNat)
    (s.cdtAddr a).moved = (if a.u then base + offset else base - offset)
    ∧ (s.cdtAddr a).addr = (if a.p then (s.cdtAddr a).moved else base) ∧ (s.cdtAddr a).wb = a.w)

/-- R101, R104, R106: where the bytes of a word are: a word load from an address with low bits `k` puts the byte lane
`(j + k) mod 4` of the bus word at byte `j`; a byte is in lane `k` (little-endian) or `3 - k` (big-endian). -/
def Obligations.ByteLanes : Prop :=
  (∀ (m : Memory) (va : Word) (j : Fin 4),
    getLane (rotateLoaded (Memory.readWord m va) va) (BitVec.ofFin j)
      = Memory.read m (va.toNat / 4 * 4 + (j.val + va.toNat) % 4))
  ∧ (∀ (m : Memory) (va : Word),
    getLane (Memory.readWord m va) (laneOf false (laneBits va)) = Memory.read m va.toNat
    ∧ getLane (Memory.readWord m va) (laneOf true (laneBits va)) = Memory.read m (va.toNat / 4 * 4 + (3 - va.toNat % 4)))

/-- R384, R385, R388, R390, R393, with the memory system as it is after reset: LDR loads the rotated word, LDRB the
zero-extended byte, after the base; Rd = R15 is a jump. The model's choices: the loaded value wins where Rd is the base
(D24) and LDRB may load R15 (D25), both log entry 26, and the low bits of a jump are dropped (log entry 25). R110, R384, R385: in any memory system a load whose read is
done loads what was read, and the read changed nothing but the TLB, the cache, the write buffer and memory under it.
-/
def Obligations.LoadsComplete : Prop :=
  (∀ s : State, Flat s →
    (∀ a : SdtImm, condPassed a.cond s.cpsr = true → sdtRefusal a.p a.w a.rn = none →
      let t := s.sdtAddrImm a
      exec (.ldrImm a) s = .next (s.afterLoad a.rn a.rd t (rotateLoaded (Memory.readWord s.mem t.addr) t.addr))
      ∧ exec (.ldrbImm a) s = .next (s.afterLoad a.rn a.rd t
        ((getLane (Memory.readWord s.mem t.addr) (laneOf s.control.b (laneBits t.addr))).setWidth 32)))
    ∧ (∀ a : SdtReg, condPassed a.cond s.cpsr = true → sdtRegRefusal a.p a.w a.rn a.rm = none →
      let t := s.sdtAddrReg a
      exec (.ldrReg a) s = .next (s.afterLoad a.rn a.rd t (rotateLoaded (Memory.readWord s.mem t.addr) t.addr))
      ∧ exec (.ldrbReg a) s = .next (s.afterLoad a.rn a.rd t
        ((getLane (Memory.readWord s.mem t.addr) (laneOf s.control.b (laneBits t.addr))).setWidth 32))))
  ∧ (∀ (s u : State),
    (∀ (a : SdtImm) (w : Word), condPassed a.cond s.cpsr = true → sdtRefusal a.p a.w a.rn = none →
      s.readWord (s.sdtAddrImm a).addr .data = .done w u →
      AccessFrame s u ∧ exec (.ldrImm a) s =
        .next (u.afterLoad a.rn a.rd (s.sdtAddrImm a) (rotateLoaded w (s.sdtAddrImm a).addr)))
    ∧ (∀ (a : SdtImm) (b : Byte), condPassed a.cond s.cpsr = true → sdtRefusal a.p a.w a.rn = none →
      s.readByte (s.sdtAddrImm a).addr .data = .done b u →
      AccessFrame s u ∧ exec (.ldrbImm a) s = .next (u.afterLoad a.rn a.rd (s.sdtAddrImm a) (b.setWidth 32)))
    ∧ (∀ (a : SdtReg) (w : Word), condPassed a.cond s.cpsr = true → sdtRegRefusal a.p a.w a.rn a.rm = none →
      s.readWord (s.sdtAddrReg a).addr .data = .done w u →
      AccessFrame s u ∧ exec (.ldrReg a) s =
        .next (u.afterLoad a.rn a.rd (s.sdtAddrReg a) (rotateLoaded w (s.sdtAddrReg a).addr)))
    ∧ (∀ (a : SdtReg) (b : Byte), condPassed a.cond s.cpsr = true → sdtRegRefusal a.p a.w a.rn a.rm = none →
      s.readByte (s.sdtAddrReg a).addr .data = .done b u →
      AccessFrame s u ∧ exec (.ldrbReg a) s = .next (u.afterLoad a.rn a.rd (s.sdtAddrReg a) (b.setWidth 32))))

/-- R105, R107, R386, R387, R388, R390, with the memory system as it is after reset: STR writes the word of Rd, unrotated,
at the word address; STRB writes one byte lane; every other byte stays. The model's choices: the low address bits of a
word store are ignored (D4, log entry 13), the value stored is the one before write-back (D24, log entry 26), and a cache
line still held may follow the write (log entry 37), else the cache and the free values stay. -/
def Obligations.StoresComplete : Prop :=
  ∀ (s : State) (i : Instr) (rn rd : RegNum) (tr : TransferAddr) (byte : Bool),
    Flat s → Memory.wf s.mem = true → condPassed (instrCond i) s.cpsr = true →
    ((∃ a : SdtImm, sdtRefusal a.p a.w a.rn = none ∧ rn = a.rn ∧ rd = a.rd ∧ tr = s.sdtAddrImm a
        ∧ i = (if byte then .strbImm a else .strImm a))
      ∨ (∃ a : SdtReg, sdtRegRefusal a.p a.w a.rn a.rm = none ∧ rn = a.rn ∧ rd = a.rd ∧ tr = s.sdtAddrReg a
        ∧ i = (if byte then .strbReg a else .strReg a))) →
    ∃ (m : Memory) (c : Vector (Option IdcLine) 256) (d : Nat),
      exec i s = .next { s with regs := s.movedBase rn tr, pc := s.pc + 4#32, mem := m, idc := c, draws := d }
      ∧ (s.idcFind tr.addr = none → c = s.idc ∧ d = s.draws)
      ∧ (∀ a : Nat, outsideWord tr.addr a → Memory.read m a = Memory.read s.mem a)
      ∧ (byte = false → Memory.readWord m tr.addr = s.readReg .rd rd 12#32)
      ∧ (byte = true →
        let lane := (wordAddr tr.addr).toNat + (laneOf s.control.b (laneBits tr.addr)).toNat
        Memory.read m lane = (s.readReg .rd rd 12#32).extractLsb' 0 8
        ∧ ∀ a : Nat, a ≠ lane → Memory.read m a = Memory.read s.mem a)

/-- R201, R392, R525: an aborted access of LDR, LDRB, STR or STRB takes the data abort with Rd unchanged; the base is
written back only in the late abort configuration. R441, R444: an aborted read of a swap takes the data abort and
makes no write; an aborted write takes it with Rd unchanged. -/
def Obligations.AbortedTransfers : Prop :=
  (∀ (s u : State) (f : MemFault) (i : Instr) (rn : RegNum) (tr : TransferAddr),
    condPassed (instrCond i) s.cpsr = true →
    ((∃ a : SdtImm, sdtRefusal a.p a.w a.rn = none ∧ rn = a.rn ∧ tr = s.sdtAddrImm a
        ∧ ((i = .ldrImm a ∧ s.readWord tr.addr .data = .abort f u)
          ∨ (i = .ldrbImm a ∧ s.readByte tr.addr .data = .abort f u)
          ∨ (i = .strImm a ∧ s.memWrite tr.addr (.word (s.readReg .rd a.rd 12#32)) false false = .abort f u)
          ∨ (i = .strbImm a
            ∧ s.memWrite tr.addr (s.byteWrite tr.addr (s.readReg .rd a.rd 12#32)) false false = .abort f u)))
      ∨ (∃ a : SdtReg, sdtRegRefusal a.p a.w a.rn a.rm = none ∧ rn = a.rn ∧ tr = s.sdtAddrReg a
        ∧ ((i = .ldrReg a ∧ s.readWord tr.addr .data = .abort f u)
          ∨ (i = .ldrbReg a ∧ s.readByte tr.addr .data = .abort f u)
          ∨ (i = .strReg a ∧ s.memWrite tr.addr (.word (s.readReg .rd a.rd 12#32)) false false = .abort f u)
          ∨ (i = .strbReg a
            ∧ s.memWrite tr.addr (s.byteWrite tr.addr (s.readReg .rd a.rd 12#32)) false false = .abort f u)))) →
    AccessFrame s u ∧ ∃ t, exec i s = .next t
      ∧ AbortTaken u (if s.control.l then s.movedBase rn tr else s.regs) f tr.addr t)
  ∧ (∀ (s u : State) (a : SwpArgs) (f : MemFault), condPassed a.cond s.cpsr = true →
    a.rd ≠ 15#4 → a.rm ≠ 15#4 → a.rn ≠ 15#4 →
    let va := s.readReg .base a.rn 8#32
    (s.readWord va .swap = .abort f u →
      (s.calm → u.settledMem = s.settledMem) ∧ ∃ t, exec (.swp a) s = .next t ∧ AbortTaken u s.regs f va t)
    ∧ (s.readByte va .swap = .abort f u →
      (s.calm → u.settledMem = s.settledMem) ∧ ∃ t, exec (.swpb a) s = .next t ∧ AbortTaken u s.regs f va t)
    ∧ (∀ w s', s.readWord va .swap = .done w s' →
      s'.memWrite va (.word (s.readReg .rm a.rm 8#32)) true false = .abort f u →
      ∃ t, exec (.swp a) s = .next t ∧ AbortTaken u s.regs f va t)
    ∧ (∀ b s', s.readByte va .swap = .done b s' →
      s'.memWrite va (s.byteWrite va (s.readReg .rm a.rm 8#32)) true false = .abort f u →
      ∃ t, exec (.swpb a) s = .next t ∧ AbortTaken u s.regs f va t))

/-- R120, R203, R444: which accesses of data abort with the MMU, the cache and the write buffer off, the reads and writes
of LDR, STR, LDM, STM and of a swap alike: a word access to an address that is not a multiple of 4 with the alignment
bit set, before any access; a read or a write of a bus word for which ABORT is raised, as an external abort without
translation; every other read and write is done. Said of an access that no reset cuts off, and of a write with no other
bus master writing. The model's choices: where ABORT is raised is the list of addresses or the answer of the bus (log
entries 12 and 42), the fault status is log entry 29, an aborted write may have landed (log entry 22), and a cache line
still held may follow a write (log entry 37). -/
def Obligations.FlatAborts : Prop :=
  ∀ (s : State) (va : Word), s.control.m = false → s.control.c = false → s.control.w = false → s.writeBuffer = [] →
    s.busAnswer.reset = false →
    let raised := s.aborts va || s.busAnswer.abort
    let after : State := { s with busTape := s.busTape.tail, mem := applyDma s.busAnswer.dma s.mem }
    let held := s.busAnswer.data.getD (Memory.readWord after.mem va)
    let written : BusWrite → State → Prop := fun w t =>
      ∃ c d, t = { s with
        busTape := s.busTape.tail, mem := w.onMemory s.mem va, idc := c, draws := d }
    let lost : State → Prop := fun t =>
      ∃ c d, t = { s with busTape := s.busTape.tail, idc := c, draws := d }
    (s.control.a = true → laneBits va ≠ 0#2 →
      (∀ kind, s.readWord va kind = .abort .alignment s)
      ∧ ∀ v swap seq, s.memWrite va (.word v) swap seq = .abort .alignment s)
    ∧ (∀ kind, (s.control.a = false ∨ laneBits va = 0#2) →
      s.readWord va kind = if raised then .abort .externalFlat after else .done held after)
    ∧ (∀ kind, s.readByte va kind = if raised then .abort .externalFlat after
      else .done (getLane held (laneOf s.control.b (laneBits va))) after)
    ∧ (∀ (w : BusWrite) (swap seq : Bool), s.busAnswer.dma = [] →
      (w.isWord = true → s.control.a = false ∨ laneBits va = 0#2) →
      (raised = true → ∃ t, s.memWrite va w swap seq = .abort .externalFlat t ∧ (written w t ∨ lost t))
      ∧ (raised = false → ∃ t, s.memWrite va w swap seq = .done () t ∧ written w t))

/-- R389, R391 (log entry 26): the forms of LDR, LDRB, STR and STRB that are refused where the condition passes, and
that no other form is. R412, R417, R420, R421, R422, R426: the forms of LDM and STM that are refused where the
condition passes. R465: write-back to R15 is refused where the condition passes and the coprocessor is not 15. The
model's choices: the refusal of an empty list (D29, log entry 44) and of LDM with S and R15 in User mode (D30, log entry
28) are decisions of the spec. -/
def Obligations.TransferRefusals : Prop :=
  ((∀ (p w : Bool) (rn : RegNum),
    (sdtRefusal p w rn = none ↔ (rn = 15#4 → p = true ∧ w = false) ∧ (w = true → p = true)))
  ∧ (∀ (p w : Bool) (rn rm : RegNum),
    (sdtRegRefusal p w rn rm = none ↔
      rm ≠ 15#4 ∧ (rn = 15#4 → p = true ∧ w = false) ∧ (w = true → p = true) ∧ (p = false → rm ≠ rn)))
  ∧ (∀ (s : State) (a : SdtImm) (r : Refusal), condPassed a.cond s.cpsr = true → sdtRefusal a.p a.w a.rn = some r →
    exec (.ldrImm a) s = .refused r ∧ exec (.ldrbImm a) s = .refused r ∧ exec (.strImm a) s = .refused r
    ∧ exec (.strbImm a) s = .refused r)
  ∧ (∀ (s : State) (a : SdtReg) (r : Refusal), condPassed a.cond s.cpsr = true →
    sdtRegRefusal a.p a.w a.rn a.rm = some r →
    exec (.ldrReg a) s = .refused r ∧ exec (.ldrbReg a) s = .refused r ∧ exec (.strReg a) s = .refused r
    ∧ exec (.strbReg a) s = .refused r))
  ∧ (∀ (s : State) (a : Bdt), condPassed a.cond s.cpsr = true →
    (a.rn = 15#4 → exec (.ldm a) s = .refused .pcOperand ∧ exec (.stm a) s = .refused .pcOperand)
    ∧ (a.rn ≠ 15#4 → a.list = 0#16 →
      exec (.ldm a) s = .refused .emptyList ∧ exec (.stm a) s = .refused .emptyList)
    ∧ (a.rn ≠ 15#4 → a.list ≠ 0#16 → a.s = true → a.w = true →
      exec (.stm a) s = .refused .userBankWriteBack
      ∧ (a.list.getLsbD 15 = false → exec (.ldm a) s = .refused .userBankWriteBack))
    ∧ (a.rn ≠ 15#4 → a.list ≠ 0#16 → a.s = true → a.list.getLsbD 15 = true → s.cpsr.mode = .usr →
      exec (.ldm a) s = .refused .spsrInUser))
  ∧ (∀ (s : State) (a : Cdt), condPassed a.cond s.cpsr = true → a.cp ≠ 15#4 → a.rn = 15#4 → a.w = true →
    exec (.ldc a) s = .refused .pcWriteBack ∧ exec (.stc a) s = .refused .pcWriteBack)

/-- R441, R442, R443, with the memory system as it is after reset: SWP reads the rotated word and writes Rm at the same
word, SWPB the same with one byte; Rd receives what memory held, every other byte stays. -/
def Obligations.SwapsComplete : Prop :=
  ∀ (s : State) (a : SwpArgs) (byte : Bool), Flat s → Memory.wf s.mem = true → condPassed a.cond s.cpsr = true →
    a.rd ≠ 15#4 → a.rm ≠ 15#4 → a.rn ≠ 15#4 →
    let va := s.readReg .base a.rn 8#32
    let old := Memory.readWord s.mem va
    let lane := laneOf s.control.b (laneBits va)
    let v := s.readReg .rm a.rm 8#32
    ∃ (m : Memory) (c : Vector (Option IdcLine) 256) (d : Nat),
      exec (if byte then .swpb a else .swp a) s = .next { s with
        regs := s.regs.set (phys s.cpsr.mode a.rd)
          (if byte then (getLane old lane).setWidth 32 else rotateLoaded old va)
        pc := s.pc + 4#32, mem := m, idc := c, draws := d }
      ∧ (s.idcFind va = none → c = s.idc ∧ d = s.draws)
      ∧ (∀ b : Nat, outsideWord va b → Memory.read m b = Memory.read s.mem b)
      ∧ (byte = false → Memory.readWord m va = v)
      ∧ (byte = true → Memory.read m ((wordAddr va).toNat + lane.toNat) = v.extractLsb' 0 8
        ∧ ∀ b : Nat, b ≠ (wordAddr va).toNat + lane.toNat → Memory.read m b = Memory.read s.mem b)

/-! ### Block data transfer -/

/-- R412, R415, R417, R420, R422, R424, with the memory system as it is after reset: LDM loads each listed register
from its slot, in the current bank or, with S and without R15, in the User bank; the base is written back unless it is
loaded; R15 is a jump. R420: LDM with R15 and S in a privileged mode: the other registers as without S, then the jump
with the SPSR of that mode copied to the CPSR. The model's choices: an SPSR that holds no mode is refused (D9 on R52, log
entry 16), what S means in User mode (D30, log entry 28), the hazard that follows a User-bank LDM (log entry 23), and the
dropped low bits of R15 (log entry 25). -/
def Obligations.LdmCompletes : Prop :=
  (∀ (s : State) (a : Bdt), Flat s → condPassed a.cond s.cpsr = true → bdtRefusal a true s.privileged = none →
    (a.s = false ∨ a.list.getLsbD 15 = false) →
    let bank : Mode := if a.s then .usr else s.cpsr.mode
    let slot := fun r => Memory.readWord s.mem (slotAddr (s.bdtSpan a).1 a.list r)
    ∃ t : State, exec (.ldm a) s = .next { s with
        regs := t.regs
        pc := if a.list.getLsbD 15 then wordAddr (slot 15#4) else s.pc + 4#32
        prefetch := if a.list.getLsbD 15 then [] else s.prefetch
        hazard := if a.s && s.cpsr.mode != .usr then 2 else s.hazard }
      ∧ (∀ r : RegNum, r ≠ 15#4 → a.list.getLsbD r.toNat = true → t.regIn bank r = slot r)
      ∧ (∀ k : Fin 30, (∀ r : RegNum, r ≠ 15#4 → a.list.getLsbD r.toNat = true → phys bank r ≠ k) →
        t.regs[k] = if a.w = true ∧ k = phys s.cpsr.mode a.rn then (s.bdtSpan a).2 else s.regs[k]))
  ∧ (∀ (s : State) (a : Bdt) (p : Psr), Flat s → condPassed a.cond s.cpsr = true → a.rn ≠ 15#4 → a.s = true →
    a.list.getLsbD 15 = true → s.spsrOf s.cpsr.mode = some p →
    let slot := fun r => Memory.readWord s.mem (slotAddr (s.bdtSpan a).1 a.list r)
    (∀ m, modeOfBits p.m = some m → ∃ t : State,
      exec (.ldm a) s = .next { s with
        regs := t.regs, pc := wordAddr (slot 15#4), prefetch := [], cpsr := ⟨p.n, p.z, p.c, p.v, p.i, p.f, m⟩ }
      ∧ (∀ r : RegNum, r ≠ 15#4 → a.list.getLsbD r.toNat = true → t.regIn s.cpsr.mode r = slot r)
      ∧ (∀ k : Fin 30, (∀ r : RegNum, r ≠ 15#4 → a.list.getLsbD r.toNat = true → phys s.cpsr.mode r ≠ k) →
        t.regs[k] = if a.w = true ∧ k = phys s.cpsr.mode a.rn then (s.bdtSpan a).2 else s.regs[k]))
    ∧ (modeOfBits p.m = none → exec (.ldm a) s = .refused .invalidMode))

/-- R412, R416, R417, R418, R421, with the memory system as it is after reset: STM stores each listed register in its
slot, from the current bank or with S the User bank, R15 as `pc + 12`, the base as it was where it is the lowest listed
register and moved where it is not; every byte outside the slots stays; then the base is written back. Nothing is said
of a register of the current bank that R590 makes free (log entry 23); the User bank has no such hazard. -/
def Obligations.StmCompletes : Prop :=
  ∀ (s : State) (a : Bdt), Flat s → Memory.wf s.mem = true → condPassed a.cond s.cpsr = true →
    bdtRefusal a false s.privileged = none →
    let bank : Mode := if a.s then .usr else s.cpsr.mode
    ∃ (m : Memory) (c : Vector (Option IdcLine) 256) (d : Nat),
      exec (.stm a) s = .next { s with
        regs := if a.w then s.regs.set (phys s.cpsr.mode a.rn) (s.bdtSpan a).2 else s.regs
        pc := s.pc + 4#32, mem := m, idc := c, draws := d }
      ∧ (s.idc = Vector.replicate 256 none → c = s.idc ∧ d = s.draws)
      ∧ (∀ b : Nat, (∀ r : RegNum, a.list.getLsbD r.toNat = true → outsideWord (slotAddr (s.bdtSpan a).1 a.list r) b) →
        Memory.read m b = Memory.read s.mem b)
      ∧ (∀ r : RegNum, a.list.getLsbD r.toNat = true → (a.s = true ∨ s.hazardous r = false) →
        Memory.readWord m (slotAddr (s.bdtSpan a).1 a.list r) =
          if r = 15#4 then s.pc + 12#32
          else if a.w = true ∧ r = a.rn ∧ listRank a.list r ≠ 0 then (s.bdtSpan a).2
          else s.regIn bank r)

/-- R201, R423, R424, R525 (log entry 27), with the MMU off: an LDM or STM one of whose slots answers ABORT takes the
data abort with the address of the first such slot. LDM: no register at or after that slot is loaded and the base is
its moved value or its old one; STM: no register but the base has changed. -/
def Obligations.AbortedBlocks : Prop :=
  ∀ (s : State) (a : Bdt) (r : RegNum), Flat { s with abortRanges := [] } →
    condPassed a.cond s.cpsr = true → a.list.getLsbD r.toNat = true →
    s.aborts (slotAddr (s.bdtSpan a).1 a.list r) = true →
    (∀ q : RegNum, q.toNat < r.toNat → a.list.getLsbD q.toNat = true →
      s.aborts (slotAddr (s.bdtSpan a).1 a.list q) = false) →
    (bdtRefusal a true s.privileged = none →
      ∃ t, exec (.ldm a) s = .next t ∧ t.cpsr = { s.cpsr with mode := .abt, i := true } ∧ t.pc = 0x10#32
        ∧ t.spsrAbt = saveCpsr s.cpsr ∧ t.far = slotAddr (s.bdtSpan a).1 a.list r ∧ t.mem = s.mem
        ∧ t.regs[(27 : Fin 30)] = s.pc + 8#32
        ∧ (phys s.cpsr.mode a.rn ≠ 27 →
          t.regs[phys s.cpsr.mode a.rn] = if a.w then (s.bdtSpan a).2 else s.regs[phys s.cpsr.mode a.rn])
        ∧ (∀ k : Fin 30, k ≠ 27 → k ≠ phys s.cpsr.mode a.rn →
          (∀ q : RegNum, q.toNat < r.toNat → a.list.getLsbD q.toNat = true → phys s.cpsr.mode q ≠ k ∧ phys .usr q ≠ k) →
          t.regs[k] = s.regs[k]))
    ∧ (bdtRefusal a false s.privileged = none →
      ∃ t, exec (.stm a) s = .next t ∧ t.cpsr = { s.cpsr with mode := .abt, i := true } ∧ t.pc = 0x10#32
        ∧ t.spsrAbt = saveCpsr s.cpsr ∧ t.far = slotAddr (s.bdtSpan a).1 a.list r
        ∧ t.regs = (if a.w then s.regs.set (phys s.cpsr.mode a.rn) (s.bdtSpan a).2 else s.regs).set 27 (s.pc + 8#32)
        ∧ ∀ b : Nat,
          (∀ q : RegNum, a.list.getLsbD q.toNat = true → outsideWord (slotAddr (s.bdtSpan a).1 a.list q) b) →
          Memory.read t.mem b = Memory.read s.mem b)

/-! ### Branches and exceptions -/

/-- R283, R284: the target of B and BL is `pc + 8` plus four times the signed offset, and is a multiple of 4 because the
pc is; BL puts `pc + 4` in R14 of the current bank, B writes no register. The model's choice: all of it is modulo 2^32,
decision D3 of the spec (R43, log entry 25). -/
def Obligations.Branches : Prop :=
  ∀ (a : BranchArgs) (s : State), condPassed a.cond s.cpsr = true → laneBits s.pc = 0#2 →
    let target := BitVec.ofInt 32 (s.pc.toNat + 8 + 4 * a.offset.toInt)
    laneBits target = 0#2
    ∧ exec (.b a) s = .next { s with pc := target, prefetch := [] }
    ∧ exec (.bl a) s = .next { s with
        regs := s.regs.set (phys s.cpsr.mode 14#4) (s.pc + 4#32), pc := target, prefetch := [] }

/-- R451: SWI, whatever its comment field; one whose condition fails does nothing. -/
def Obligations.SoftwareInterrupt : Prop :=
  ∀ (a : SwiArgs) (s : State),
    (condPassed a.cond s.cpsr = true →
      exec (.swi a) s = .next { s with
        regs := s.regs.set 25 (s.pc + 4#32)
        spsrSvc := saveCpsr s.cpsr
        cpsr := { s.cpsr with mode := .svc, i := true }
        pc := 0x00000008#32
        prefetch := []
        waiting := none })
    ∧ (condPassed a.cond s.cpsr = false → exec (.swi a) s = .next { s with pc := s.pc + 4#32 })

/-- R455: the undefined instruction, whatever its free bits: every word with bits 27:25 = 011 and bit 4 = 1; one whose
condition fails is skipped. -/
def Obligations.UndefinedInstruction : Prop :=
  (∀ (a : UndefArgs) (s : State),
    (condPassed a.cond s.cpsr = true →
      exec (.undefined a) s = .next { s with
        regs := s.regs.set 29 (s.pc + 4#32)
        spsrUnd := saveCpsr s.cpsr
        cpsr := { s.cpsr with mode := .und, i := true }
        pc := 0x00000004#32
        prefetch := []
        waiting := none })
    ∧ (condPassed a.cond s.cpsr = false → exec (.undefined a) s = .next { s with pc := s.pc + 4#32 }))
  ∧ ∀ w : Word, w.extractLsb' 25 3 = 0b011#3 → w.getLsbD 4 = true → ∃ a, decodeWord w = .ok (.undefined a)

/-- R511: the common entry, into any privileged mode: what it saves and sets, and that nothing else changes. -/
def Obligations.ExceptionEntry : Prop :=
  ∀ (s : State) (m : Mode) (vector ret : Word) (setF : Bool), m ≠ .usr →
    let t := s.enter m vector ret setF
    t.regIn m 14#4 = ret ∧ (∀ k : Fin 30, k ≠ phys m 14#4 → t.regs[k] = s.regs[k])
    ∧ t.spsrOf m = some (saveCpsr s.cpsr) ∧ (∀ m', m' ≠ m → t.spsrOf m' = s.spsrOf m')
    ∧ t.cpsr = { s.cpsr with mode := m, i := true, f := if setF then true else s.cpsr.f }
    ∧ t.pc = vector ∧ t.prefetch = [] ∧ t.waiting = none
    ∧ t = { s with
        regs := t.regs, pc := t.pc, cpsr := t.cpsr, prefetch := t.prefetch, waiting := t.waiting
        spsrFiq := t.spsrFiq, spsrIrq := t.spsrIrq, spsrSvc := t.spsrSvc, spsrAbt := t.spsrAbt, spsrUnd := t.spsrUnd }

/-- R319, R520, R521, R525, R526, R533, R534, R541, R545: the returns: `MOVS PC,R14` after SWI and the undefined trap,
`SUBS PC,R14,#4` after an interrupt or a prefetch abort, `SUBS PC,R14,#8` after a data abort give back the CPSR and go on
where the rule says: after the instruction, at the interrupted or aborted instruction (for IRQ with the choice of log
entry 35). Left out by the hypothesis on `hazard`: a return right after a User-bank LDM, where R590 makes R14 free. -/
def Obligations.EntryThenReturn : Prop :=
  ∀ s : State, laneBits s.pc = 0#2 →
    let movs : Instr := .movShift ⟨.al, true, 0#4, 15#4, 0#5, .lsl, 14#4⟩
    let subs : Byte → Instr := fun k => .subImm ⟨.al, true, 14#4, 15#4, 0#4, k⟩
    let back : Instr → State → Word → Prop := fun i e v =>
      e.hazard ≠ 1 → ∃ t, exec i e = .next t ∧ t.cpsr = s.cpsr ∧ t.pc = v
    back movs s.enterSwi (s.pc + 4#32) ∧ back movs s.enterUndefined (s.pc + 4#32)
    ∧ back (subs 4#8) s.enterIrq s.pc ∧ back (subs 4#8) s.enterFiq s.pc
    ∧ back (subs 4#8) s.enterPrefetchAbort s.pc
    ∧ ∀ f va, back (subs 8#8) (s.dataAbort f va) s.pc

/-! ### Coprocessors -/

/-- R461, R463, R464: an instruction for an absent or refusing coprocessor 0 to 14 takes the undefined instruction
trap and does nothing else; the refusing answer is used up (log entry 11). R462 (log entry 38): while the coprocessor
is busy the instruction waits, to be offered again as it is, and nothing else changes, so that an interrupt can be taken
at the boundary; where the coprocessor never goes not-busy and no interrupt is taken, each step leaves the processor
waiting as before, with nothing buffered. -/
def Obligations.CoprocessorsThatDoNotAccept : Prop :=
  (∀ (i : Instr) (s : State), condPassed (instrCond i) s.cpsr = true →
    (s.coprocTape = [] ∨ s.coprocTape.head? = some .refuse) →
    ((∃ a, i = .cdp a ∧ a.cp ≠ 15#4) ∨ (∃ a, i = .mrc a ∧ a.cp ≠ 15#4) ∨ (∃ a, i = .mcr a ∧ a.cp ≠ 15#4)
      ∨ (∃ a, (i = .ldc a ∨ i = .stc a) ∧ a.cp ≠ 15#4 ∧ (a.rn = 15#4 → a.w = false))) →
    exec i s = .next { s with
      regs := s.regs.set 29 (s.pc + 4#32)
      spsrUnd := saveCpsr s.cpsr
      cpsr := { s.cpsr with mode := .und, i := true }
      pc := 0x00000004#32
      prefetch := []
      waiting := none
      coprocTape := s.coprocTape.tail })
  ∧ (∀ (i : Instr) (s : State) (rest : List CoprocAnswer), condPassed (instrCond i) s.cpsr = true →
    s.coprocTape = .busy :: rest →
    ((∃ a, i = .cdp a ∧ a.cp ≠ 15#4) ∨ (∃ a, i = .mrc a ∧ a.cp ≠ 15#4) ∨ (∃ a, i = .mcr a ∧ a.cp ≠ 15#4)
      ∨ (∃ a, (i = .ldc a ∨ i = .stc a) ∧ a.cp ≠ 15#4 ∧ (a.rn = 15#4 → a.w = false))) →
    exec i s = .next { s with
      coprocTape := rest, waiting := some (encode i) })
  ∧ (∀ (i : Instr) (s : State), condPassed (instrCond i) s.cpsr = true → s.coprocTape.head? = some .neverReady →
    ((∃ a, i = .cdp a ∧ a.cp ≠ 15#4) ∨ (∃ a, i = .mrc a ∧ a.cp ≠ 15#4) ∨ (∃ a, i = .mcr a ∧ a.cp ≠ 15#4)
      ∨ (∃ a, (i = .ldc a ∨ i = .stc a) ∧ a.cp ≠ 15#4 ∧ (a.rn = 15#4 → a.w = false))) →
    exec i s = .next { s with waiting := some (encode i) }
    ∧ (s.waiting = some (encode i) → decodeWord (encode i) = .ok i → s.writeBuffer = [] →
      s.nextInputs.reset = false → (s.nextInputs.fiq = true → s.cpsr.f = true) →
      (s.nextInputs.irq = true → s.cpsr.i = true) →
      step s = .next { s with
        inputs := s.inputs.tail
        mem := applyDma s.nextInputs.dma s.mem
        draws := s.draws + 1 }))

/-- R460, R464, R470, R471: CDP, MRC and MCR with an accepting coprocessor: what is sent to it, what Rd or the flags
receive, and that nothing else changes. R15 is sent as `pc + 12`. -/
def Obligations.CoprocessorOperations : Prop :=
  ∀ (s : State) (n : Nat) (data : List Word) (rest : List CoprocAnswer), s.coprocTape = .accept n data :: rest →
    (∀ a : Cdo, condPassed a.cond s.cpsr = true → a.cp ≠ 15#4 →
      exec (.cdp a) s = .next { s with
        coprocTape := rest, coprocSent := ⟨encode (.cdp a), s.privileged, []⟩ :: s.coprocSent, pc := s.pc + 4#32 })
    ∧ (∀ a : Crt, condPassed a.cond s.cpsr = true → a.cp ≠ 15#4 →
      exec (.mcr a) s = .next { s with
        coprocTape := rest
        coprocSent := ⟨encode (.mcr a), s.privileged, [s.readReg .rd a.rd 12#32]⟩ :: s.coprocSent
        pc := s.pc + 4#32 })
    ∧ (∀ a : Crt, condPassed a.cond s.cpsr = true → a.cp ≠ 15#4 →
      ∃ w : Word, (∀ v, data.head? = some v → w = v)
        ∧ (a.rd ≠ 15#4 → exec (.mrc a) s = .next { s with
          coprocTape := rest
          coprocSent := ⟨encode (.mrc a), s.privileged, []⟩ :: s.coprocSent
          regs := s.regs.set (phys s.cpsr.mode a.rd) w
          pc := s.pc + 4#32 })
        ∧ (a.rd = 15#4 → exec (.mrc a) s = .next { s with
          coprocTape := rest
          coprocSent := ⟨encode (.mrc a), s.privileged, []⟩ :: s.coprocSent
          cpsr := { s.cpsr with n := w.getLsbD 31, z := w.getLsbD 30, c := w.getLsbD 29, v := w.getLsbD 28 }
          pc := s.pc + 4#32 }))

/-- R460, R465, R466, with the memory system as it is after reset: LDC sends the accepting coprocessor its words, at
least one, from ascending addresses; the base is written back; nothing else changes. R460, R465, R467, with the memory
system as it is after reset: STC stores the accepting coprocessor's words, at least one, at ascending addresses; every
other byte stays. Nothing is said of a word its answer does not list. R201, R466, R467, R469 (log entry 30): an access
of LDC or STC that aborts takes the data abort with that address, the base written back all the same. Said of the
first access, with the MMU off. -/
def Obligations.CoprocessorTransfersComplete : Prop :=
  (∀ (s : State) (a : Cdt) (n : Nat) (data : List Word) (rest : List CoprocAnswer),
    Flat s → s.coprocTape = .accept n data :: rest → condPassed a.cond s.cpsr = true → a.cp ≠ 15#4 →
    (a.rn = 15#4 → a.w = false) →
    exec (.ldc a) s = .next { s with
      coprocTape := rest
      coprocSent := ⟨encode (.ldc a), s.privileged,
        (List.range (max 1 n)).map fun k => Memory.readWord s.mem ((s.cdtAddr a).addr + BitVec.ofNat 32 (4 * k))⟩
        :: s.coprocSent
      regs := s.movedBase a.rn (s.cdtAddr a)
      pc := s.pc + 4#32 })
  ∧ (∀ (s : State) (a : Cdt) (n : Nat) (data : List Word) (rest : List CoprocAnswer),
    Flat s → Memory.wf s.mem = true → s.coprocTape = .accept n data :: rest → condPassed a.cond s.cpsr = true →
    a.cp ≠ 15#4 → (a.rn = 15#4 → a.w = false) → n < 2 ^ 30 →
    ∃ (m : Memory) (c : Vector (Option IdcLine) 256) (d : Nat),
      exec (.stc a) s = .next { s with
        coprocTape := rest
        coprocSent := ⟨encode (.stc a), s.privileged, []⟩ :: s.coprocSent
        regs := s.movedBase a.rn (s.cdtAddr a)
        pc := s.pc + 4#32, mem := m, idc := c, draws := d }
      ∧ (s.idc = Vector.replicate 256 none → c = s.idc ∧ d = s.draws)
      ∧ (∀ b : Nat, (∀ k, k < max 1 n → outsideWord ((s.cdtAddr a).addr + BitVec.ofNat 32 (4 * k)) b) →
        Memory.read m b = Memory.read s.mem b)
      ∧ (∀ k v, k < max 1 n → data[k]? = some v →
        Memory.readWord m ((s.cdtAddr a).addr + BitVec.ofNat 32 (4 * k)) = v))
  ∧ (∀ (s : State) (a : Cdt) (n : Nat) (data : List Word) (rest : List CoprocAnswer),
    Flat { s with abortRanges := [] } → s.coprocTape = .accept n data :: rest → condPassed a.cond s.cpsr = true →
    a.cp ≠ 15#4 → (a.rn = 15#4 → a.w = false) → s.aborts (s.cdtAddr a).addr = true →
    (∃ t, exec (.ldc a) s = .next t ∧ AbortTaken
      { s with coprocTape := rest, coprocSent := ⟨encode (.ldc a), s.privileged, []⟩ :: s.coprocSent }
      (s.movedBase a.rn (s.cdtAddr a)) .externalFlat (s.cdtAddr a).addr t)
    ∧ (∃ t, exec (.stc a) s = .next t ∧ t.far = (s.cdtAddr a).addr ∧ t.pc = 0x10#32
      ∧ t.cpsr = { s.cpsr with mode := .abt, i := true } ∧ t.spsrAbt = saveCpsr s.cpsr
      ∧ t.regs = (s.movedBase a.rn (s.cdtAddr a)).set 27 (s.pc + 8#32)))

/-! ### Coprocessor 15 -/

/-- R484, R485, R486: every instruction for coprocessor 15 in User mode, CDP, LDC and STC for it in any mode (log entry
30), and a transfer with its registers 8 to 15, take the undefined instruction trap. -/
def Obligations.SystemCoprocessorTraps : Prop :=
  ∀ (i : Instr) (s : State), condPassed (instrCond i) s.cpsr = true →
    ((∃ a, i = .cdp a ∧ a.cp = 15#4) ∨ (∃ a, (i = .ldc a ∨ i = .stc a) ∧ a.cp = 15#4)
      ∨ (∃ a, (i = .mrc a ∨ i = .mcr a) ∧ a.cp = 15#4 ∧ (s.cpsr.mode = .usr ∨ 8 ≤ a.crn.toNat))
      ∨ (s.cpsr.mode = .usr ∧ ∃ a, i = .mrcId a ∨ i = .mrcFsr a ∨ i = .mrcFar a ∨ i = .mcrControl a ∨ i = .mcrTtb a
        ∨ i = .mcrDacr a ∨ i = .mcrTlbFlush a ∨ i = .mcrTlbPurge a ∨ i = .mcrIdcFlush a)) →
    exec i s = .next s.undefinedTaken

/-- R482, R486, R487, R490, R491: reads of coprocessor 15 in a privileged mode: the identity, the fault status over free
upper bits, the fault address. Rd = R15 takes the flags. The model's choice: a register that it does not allow to be
read gives a free value (D35 on R486, log entry 17). -/
def Obligations.SystemCoprocessorReads : Prop :=
  ∀ (s : State) (i : Instr) (rd : RegNum), s.cpsr.mode ≠ .usr → condPassed (instrCond i) s.cpsr = true →
    ((∃ a : Cp15Args, a.rd = rd ∧ (i = .mrcId a ∨ i = .mrcFsr a ∨ i = .mrcFar a))
      ∨ (∃ a : Crt, a.rd = rd ∧ i = .mrc a ∧ a.cp = 15#4 ∧ a.crn.toNat < 8)) →
    ∃ w : Word,
      ((∃ a, i = .mrcId a) → w = 0x41560601#32)
      ∧ ((∃ a, i = .mrcFsr a) → w.extractLsb' 8 4 = 0#4 ∧ w.extractLsb' 0 8 = s.fsr)
      ∧ ((∃ a, i = .mrcFar a) → w = s.far)
      ∧ exec i s = .next (if rd = 15#4
        then { s with
          cpsr := { s.cpsr with n := w.getLsbD 31, z := w.getLsbD 30, c := w.getLsbD 29, v := w.getLsbD 28 }
          pc := s.pc + 4#32 }
        else { s with regs := s.regs.set (phys s.cpsr.mode rd) w, pc := s.pc + 4#32 })

/-- R488, R56, R139: the control register takes bits 8:0 of the data, all at once; the three combinations with the MMU
off and the cache or the write buffer on are refused. The model's choices: bits 31:9 are ignored (D13, log entry 43), and
a word with P = 0 or D = 0, which R488 leaves to `CFG26`, is written as it is or refused as that parameter says (D1, log
entry 6). -/
def Obligations.ControlRegisterWrite : Prop :=
  ∀ (a : Cp15Args) (s : State), s.cpsr.mode ≠ .usr → condPassed a.cond s.cpsr = true →
    let w := s.readReg .rd a.rd 12#32
    (w.getLsbD 0 = true ∨ (w.getLsbD 2 = false ∧ w.getLsbD 3 = false) →
      (s.cfg26 = .same ∨ (w.getLsbD 4 = true ∧ w.getLsbD 5 = true) →
        exec (.mcrControl a) s = .next { s with
          control := ⟨w.getLsbD 0, w.getLsbD 1, w.getLsbD 2, w.getLsbD 3, w.getLsbD 4, w.getLsbD 5, w.getLsbD 6,
            w.getLsbD 7, w.getLsbD 8⟩
          pc := s.pc + 4#32 })
      ∧ (s.cfg26 = .refuse → (w.getLsbD 4 = false ∨ w.getLsbD 5 = false) →
        exec (.mcrControl a) s = .refused .cfg26))
    ∧ (w.getLsbD 0 = false → (w.getLsbD 2 = true ∨ w.getLsbD 3 = true) →
      exec (.mcrControl a) s = .refused .invalidCombination)

/-- R489: the translation table base takes bits 31:14 of the data, in a privileged mode; in User mode the transfer traps. -/
def Obligations.TranslationTableBaseWrite : Prop :=
  ∀ (a : Cp15Args) (s : State), condPassed a.cond s.cpsr = true →
    (s.cpsr.mode ≠ .usr → exec (.mcrTtb a) s = .next { s with
      ttb := (s.readReg .rd a.rd 12#32).extractLsb' 14 18, pc := s.pc + 4#32 })
    ∧ (s.cpsr.mode = .usr → exec (.mcrTtb a) s = .next s.undefinedTaken)

/-- R495, R188: the domain access control register takes the data, and the field of domain `n` is bits `2n+1:2n`; in User
mode the transfer traps. -/
def Obligations.DomainAccessWrite : Prop :=
  ∀ (a : Cp15Args) (s : State), condPassed a.cond s.cpsr = true →
    (s.cpsr.mode ≠ .usr → exec (.mcrDacr a) s = .next { s with
      dacr := s.readReg .rd a.rd 12#32, pc := s.pc + 4#32 })
    ∧ (s.cpsr.mode = .usr → exec (.mcrDacr a) s = .next s.undefinedTaken)
    ∧ ∀ (d : BitVec 4) (k : Fin 2), (s.domainAccess d).getLsbD k = s.dacr.getLsbD (2 * d.toNat + k)

/-- R492, R493, R494, R176: the writes that are operations. A TLB flush drops every entry, a purge every entry that
covers the address and no other, a cache flush every line. The model's choice: a write to register 0 or 4, which may not
be written, does nothing (D35 on R486, log entry 17). -/
def Obligations.SystemCoprocessorOperations : Prop :=
  ∀ s : State, s.cpsr.mode ≠ .usr →
    (∀ a : Cp15Args, condPassed a.cond s.cpsr = true →
      exec (.mcrTlbFlush a) s = .next { s with tlb := Vector.replicate 32 none, pc := s.pc + 4#32 }
      ∧ exec (.mcrIdcFlush a) s = .next { s with idc := Vector.replicate 256 none, pc := s.pc + 4#32 }
      ∧ ∃ tlb, exec (.mcrTlbPurge a) s = .next { s with tlb := tlb, pc := s.pc + 4#32 }
        ∧ ∀ k : Fin 32, (∀ e, s.tlb[k] = some e → e.covers (s.readReg .rd a.rd 12#32) = true → tlb[k] = none)
          ∧ (∀ e, s.tlb[k] = some e → e.covers (s.readReg .rd a.rd 12#32) = false → tlb[k] = some e)
          ∧ (s.tlb[k] = none → tlb[k] = none))
    ∧ (∀ a : Crt, condPassed a.cond s.cpsr = true → a.cp = 15#4 → (a.crn = 0#4 ∨ a.crn = 4#4) →
      exec (.mcr a) s = .next { s with pc := s.pc + 4#32 })

/-! ### Memory management -/

/-- R112, R160: with the MMU off an address is its own. R161, R162, R169, R175, R188, R189: with the MMU on an address that
entries of the TLB cover is translated by one of them, with the DACR and the S bit of now, and with no walk. R165, R168,
R169, R172: with no entry for it, and nothing buffered or disturbing the bus, a section descriptor gives a TLB entry,
filled before the checks, which then translates the address; a descriptor of type 00 or 11 gives a translation fault and
no entry. R164, R172, R196, R200: an external abort on the level one fetch is the fault `walk1` and gives no entry. The
model's choices: which of several entries is free, and the fill comes before the checks (D19, log entry 21);
descriptor bits 9 and 19:12 are not looked at (log entry 41). -/
def Obligations.SectionTranslation : Prop :=
  ∀ (s : State) (va : Word) (write : Bool),
    (s.control.m = false → s.translate va write = .done ⟨va, Attr.flat⟩ s)
    ∧ (s.control.m = true → (∃ (k : Fin 32) (e : TlbEntry), s.tlb[k] = some e ∧ e.covers va = true) →
      ∃ (k : Fin 32) (e : TlbEntry) (d : Nat), s.tlb[k] = some e ∧ e.covers va = true
        ∧ s.translate va write = s.checkedBy e va write { s with draws := d }
        ∧ (∀ e', s.tlbHits va = [e'] → d = s.draws))
    ∧ (s.control.m = true → s.tlbHits va = [] → s.writeBuffer = [] → s.abortRanges = [] → s.busTape = [] →
      let l1 := Memory.readWord s.mem (BitVec.ofNat 32 (s.ttb.toNat * 2 ^ 14 + va.toNat / 2 ^ 20 * 4))
      (l1.extractLsb' 0 2 = 2#2 →
        let e : TlbEntry := ⟨.sect (va.extractLsb' 20 12) (l1.extractLsb' 20 12) (l1.extractLsb' 10 2),
          l1.extractLsb' 5 4, l1.getLsbD 3, l1.getLsbD 2, l1.getLsbD 4⟩
        e.covers va = true
        ∧ s.translate va write =
          s.checkedBy e va write { s with tlb := s.tlb.set s.tlbNext (some e), tlbNext := s.tlbNext + 1 })
      ∧ (l1.extractLsb' 0 2 = 0#2 ∨ l1.extractLsb' 0 2 = 3#2 →
        s.translate va write = .abort (.translation false (l1.extractLsb' 5 4)) s))
    ∧ (s.control.m = true → s.tlbHits va = [] → s.writeBuffer = [] → s.busAnswer.reset = false →
      (s.aborts (BitVec.ofNat 32 (s.ttb.toNat * 2 ^ 14 + va.toNat / 2 ^ 20 * 4)) || s.busAnswer.abort) = true →
      s.translate va write =
        .abort .walk1 { s with busTape := s.busTape.tail, mem := applyDma s.busAnswer.dma s.mem })
    ∧ (∀ (tag base : BitVec 12) (ap : BitVec 2) (dom : BitVec 4) (c b u : Bool),
      let e : TlbEntry := ⟨.sect tag base ap, dom, c, b, u⟩
      (e.covers va = true ↔ va.toNat / 2 ^ 20 = tag.toNat) ∧ e.isPage = false ∧ e.apFor va = ap
      ∧ (e.physical va).toNat = base.toNat * 2 ^ 20 + va.toNat % 2 ^ 20)

/-- R167, R170, R171, R172, R173, R174, R191: with the MMU on, no entry for the address, and nothing buffered or disturbing
the bus, a page table descriptor leads to a large page (type 01) or a small page (type 10), which gives a TLB entry that
then translates the address; types 00 and 11 give a page translation fault and no entry. Its permissions are those of the
quarter of the page that holds the address. R164, R172, R196, R200: an external abort on the level two fetch is the fault
`walk2` with the domain of level one, and gives no entry. The model's choices: the quarters of a large page are of 16 Kbytes (conflict
C2, log entry 35); which of descriptor bits 3 and 2 is C and which B is `PTE_CB_ORDER` (R171, log entry 7), said of both
orders; the fill comes before the checks (log entry 21); level one bits 9 and 3:2 and, of a large page, level two bits
15:12 are not looked at (log entry 41). -/
def Obligations.PageTranslation : Prop :=
  ∀ (s : State) (va : Word) (write : Bool),
    (s.control.m = true → s.tlbHits va = [] → s.writeBuffer = [] → s.abortRanges = [] → s.busTape = [] →
      let l1 := Memory.readWord s.mem (BitVec.ofNat 32 (s.ttb.toNat * 2 ^ 14 + va.toNat / 2 ^ 20 * 4))
      let l2 := Memory.readWord s.mem (BitVec.ofNat 32 (l1.toNat / 2 ^ 10 * 2 ^ 10 + va.toNat / 2 ^ 12 % 2 ^ 8 * 4))
      let gives : Granule → Prop := fun g =>
        ∃ e : TlbEntry, e.granule = g ∧ e.domain = l1.extractLsb' 5 4 ∧ e.u = l1.getLsbD 4 ∧ e.covers va = true
          ∧ e.c = (if Config.pteCbAsPrinted then l2.getLsbD 2 else l2.getLsbD 3)
          ∧ e.b = (if Config.pteCbAsPrinted then l2.getLsbD 3 else l2.getLsbD 2)
          ∧ s.translate va write =
            s.checkedBy e va write { s with tlb := s.tlb.set s.tlbNext (some e), tlbNext := s.tlbNext + 1 }
      l1.extractLsb' 0 2 = 1#2 →
      (l2.extractLsb' 0 2 = 1#2 →
        gives (.large (va.extractLsb' 16 16) (l2.extractLsb' 16 16) (l2.extractLsb' 4 8)))
      ∧ (l2.extractLsb' 0 2 = 2#2 →
        gives (.small (va.extractLsb' 12 20) (l2.extractLsb' 12 20) (l2.extractLsb' 4 8)))
      ∧ (l2.extractLsb' 0 2 = 0#2 ∨ l2.extractLsb' 0 2 = 3#2 →
        s.translate va write = .abort (.translation true (l1.extractLsb' 5 4)) s))
    ∧ (s.control.m = true → s.tlbHits va = [] → s.writeBuffer = [] →
      let l1Addr : Word := BitVec.ofNat 32 (s.ttb.toNat * 2 ^ 14 + va.toNat / 2 ^ 20 * 4)
      let s1 : State := { s with busTape := s.busTape.tail, mem := applyDma s.busAnswer.dma s.mem }
      let l1 := s.busAnswer.data.getD (Memory.readWord s1.mem l1Addr)
      let l2Addr : Word := BitVec.ofNat 32 (l1.toNat / 2 ^ 10 * 2 ^ 10 + va.toNat / 2 ^ 12 % 2 ^ 8 * 4)
      s.busAnswer.reset = false → (s.aborts l1Addr || s.busAnswer.abort) = false → l1.extractLsb' 0 2 = 1#2 →
      s1.busAnswer.reset = false → (s.aborts l2Addr || s1.busAnswer.abort) = true →
      s.translate va write = .abort (.walk2 (l1.extractLsb' 5 4))
        { s1 with busTape := s1.busTape.tail, mem := applyDma s1.busAnswer.dma s1.mem })
    ∧ (∀ (tag base : BitVec 16) (ap : BitVec 8) (dom : BitVec 4) (c b u : Bool),
      let e : TlbEntry := ⟨.large tag base ap, dom, c, b, u⟩
      (e.covers va = true ↔ va.toNat / 2 ^ 16 = tag.toNat) ∧ e.isPage = true
      ∧ e.apFor va = ap.extractLsb' (2 * (va.toNat / 2 ^ 14 % 4)) 2
      ∧ (e.physical va).toNat = base.toNat * 2 ^ 16 + va.toNat % 2 ^ 16)
    ∧ (∀ (tag base : BitVec 20) (ap : BitVec 8) (dom : BitVec 4) (c b u : Bool),
      let e : TlbEntry := ⟨.small tag base ap, dom, c, b, u⟩
      (e.covers va = true ↔ va.toNat / 2 ^ 12 = tag.toNat) ∧ e.isPage = true
      ∧ e.apFor va = ap.extractLsb' (2 * (va.toNat / 2 ^ 10 % 4)) 2
      ∧ (e.physical va).toNat = base.toNat * 2 ^ 12 + va.toNat % 2 ^ 12)

/-- R190: the access permissions. -/
def Obligations.AccessPermissions : Prop :=
  ∀ sBit privileged write : Bool,
    (permitted 0b00#2 sBit privileged write = true ↔ sBit = true ∧ privileged = true ∧ write = false)
    ∧ (permitted 0b01#2 sBit privileged write = true ↔ privileged = true)
    ∧ (permitted 0b10#2 sBit privileged write = true ↔ privileged = true ∨ write = false)
    ∧ permitted 0b11#2 sBit privileged write = true

/-- R200, R195, R203: FSR[3:0] and the domain of each fault, whatever the open bits are (the status of an external
abort with the MMU off is log entry 29). -/
def Obligations.FaultStatusCodes : Prop :=
  ∀ (d : BitVec 4) (x : Word),
    (MemFault.alignment.fsr x).extractLsb' 2 2 = 0b00#2 ∧ (MemFault.alignment.fsr x).getLsbD 0 = true
    ∧ MemFault.walk1.fsr x = (MemFault.walk1.fsr x).extractLsb' 4 4 ++ 0b1100#4
    ∧ (MemFault.walk2 d).fsr x = d ++ 0b1110#4
    ∧ (MemFault.translation false d).fsr x = d ++ 0b0101#4 ∧ (MemFault.translation true d).fsr x = d ++ 0b0111#4
    ∧ (MemFault.domain false d).fsr x = d ++ 0b1001#4 ∧ (MemFault.domain true d).fsr x = d ++ 0b1011#4
    ∧ (MemFault.permission false d).fsr x = d ++ 0b1101#4 ∧ (MemFault.permission true d).fsr x = d ++ 0b1111#4
    ∧ (MemFault.linefetch false d).fsr x = d ++ 0b0100#4 ∧ (MemFault.linefetch true d).fsr x = d ++ 0b0110#4
    ∧ (MemFault.external false d).fsr x = d ++ 0b1000#4 ∧ (MemFault.external true d).fsr x = d ++ 0b1010#4
    ∧ (MemFault.externalFlat.fsr x).extractLsb' 2 2 = 0b10#2 ∧ (MemFault.externalFlat.fsr x).getLsbD 0 = false

/-! ### Cache and write buffer -/

/-- R140, R141, R142, R143: a write that its translation and the alignment check let through goes into the write buffer
where the W bit and the entry's B bit are set and it is not the write of a swap; any other is a bus write, which leaves
the buffer empty. A write that finds its way into the buffer is the newest entry and keeps the bounds of 8 words and 2
address runs. In calm the memory the processor sees is that with the write performed, and an external read sees it. R144:
a buffered write for which ABORT is raised when it is performed, by itself or for a later external access, is refused.
The model's choices: the buffer is first in, first out, and an external read or an unbuffered write comes after all
buffered writes (D5 on R146 and R147, log entry 19); the refusal is decision D16 (log entry 20). -/
def Obligations.BufferedWrites : Prop :=
  (∀ (s u : State) (va : Word) (w : BusWrite) (swap seq : Bool) (tr : Translated),
    s.translate va true = .done tr u → (w.isWord = true → s.misaligned va = false) →
    let c := u.cacheWrite va tr.attr w
    s.memWrite va w swap seq =
      if s.control.w = true ∧ tr.attr.b = true ∧ swap = false then c.bufferWrite tr.pa w seq
      else c.busWrite tr.pa w swap tr.attr.externalFault)
  ∧ (∀ (s t : State) (pa : Word) (w : BusWrite) (locked : Bool) (f : MemFault),
    s.busWrite pa w locked f = .done () t →
    t.writeBuffer = [] ∧ (s.calm → t.mem = w.onMemory s.settledMem pa))
  ∧ (∀ (s t : State) (pa : Word) (w : BusWrite) (seq : Bool), s.writeBuffer.length ≤ 8 → wbRuns s.writeBuffer ≤ 2 →
    s.bufferWrite pa w seq = .done () t →
    t.writeBuffer.length ≤ 8 ∧ wbRuns t.writeBuffer ≤ 2
    ∧ (∃ e, t.writeBuffer.getLast? = some e ∧ e.addr = pa ∧ e.write = w)
    ∧ (s.calm → t.settledMem = w.onMemory s.settledMem pa))
  ∧ (∀ (s t : State) (pa w : Word) (f : MemFault), s.busRead pa f = .done w t →
    t.writeBuffer = []
    ∧ (s.calm → t.mem = s.settledMem
      ∧ ((∀ a ∈ s.busTape, a.data = none) → w = Memory.readWord s.settledMem pa)))
  ∧ (∀ (s : State) (e : WbEntry) (rest : List WbEntry), s.writeBuffer = e :: rest → s.busAnswer.reset = false →
    (s.aborts e.addr || s.busAnswer.abort) = true →
    (∀ n, s.drain (n + 1) = .halt (.refused .bufferedWriteAborted))
    ∧ (∀ pa f, s.busRead pa f = .halt (.refused .bufferedWriteAborted))
    ∧ (∀ pa w locked f, s.busWrite pa w locked f = .halt (.refused .bufferedWriteAborted)))

/-- R131, R132, R138: a read is served by the cache exactly where the C bit of the control register and of the translation
are set and it is not the read of a swap; another is an external read, which neither searches nor changes the cache. A
cacheable read of a held line uses no bus; one of a line not held fetches its four words from the 16-byte block and holds
them after. R202: an abort on word 0 of a linefetch leaves the cache alone; one on word 1, 2 or 3 is refused. R133, R134:
an updateable write updates the held word at its address and nothing else in the cache and fills no line, a
non-updateable one leaves the cache alone. The model's choices: a linefetch comes after all buffered writes (D5 on R146, log entry 19), and the refusal
is decision D16 (log entry 20). -/
def Obligations.CacheReadsAndWrites : Prop :=
  ((∀ (s s' : State) (va : Word) (t : Translated) (kind : ReadKind), s.translate va false = .done t s' →
    s.readBusWord va kind =
      if s.control.c = true ∧ t.attr.c = true ∧ kind ≠ .swap then s'.cachedRead va t
      else s'.busRead t.pa t.attr.externalFault)
  ∧ (∀ (s u : State) (pa w : Word) (f : MemFault) (idc : Vector (Option IdcLine) 256),
    s.busRead pa f = .done w u →
    u.idc = s.idc ∧ { s with idc := idc }.busRead pa f = .done w { u with idc := idc })
  ∧ (∀ (s : State) (va : Word) (t : Translated) (l : IdcLine), s.idcFind va = some l →
    s.cachedRead va t = .done l.data[lineIndex va] s ∧ l.tag = va.extractLsb' 4 28)
  ∧ (∀ (s u : State) (va w : Word) (t : Translated), s.calm → (∀ a ∈ s.busTape, a.data = none) →
    s.idcFind va = none → s.cachedRead va t = .done w u →
    w = Memory.readWord s.settledMem (t.pa >>> 4 <<< 4 ||| (va &&& 0xC#32))
    ∧ ∃ l, u.idcFind va = some l
      ∧ ∀ k : Fin 4, l.data[k] = Memory.readWord s.settledMem ((t.pa >>> 4 <<< 4) + BitVec.ofNat 32 (4 * k.val)))
  ∧ (∀ (s : State) (va : Word) (t : Translated), s.calm → s.writeBuffer = [] → s.idcFind va = none →
    let raised : Nat → Bool := fun k =>
      s.aborts ((t.pa >>> 4 <<< 4) + BitVec.ofNat 32 (4 * k)) || (s.busTape.getD k BusAnswer.idle).abort
    (raised 0 = true → ∃ u, s.cachedRead va t = .abort t.attr.linefetchFault u ∧ u.idc = s.idc)
    ∧ (raised 0 = false → (raised 1 || raised 2 || raised 3) = true →
      s.cachedRead va t = .halt (.refused .linefetchAborted))))
  ∧ (∀ (s : State) (va : Word) (a : Attr) (w : BusWrite), a.entry.isSome = true →
    (a.u = false → s.cacheWrite va a w = s)
    ∧ (a.u = true → ∃ idc : Vector (Option IdcLine) 256, s.cacheWrite va a w = { s with idc := idc }
      ∧ (∀ i : Fin 256, s.idc[i] = none → idc[i] = none)
      ∧ ∀ (i : Fin 256) (l : IdcLine), s.idc[i] = some l →
        (l.tag ≠ va.extractLsb' 4 28 → idc[i] = some l)
        ∧ (l.tag = va.extractLsb' 4 28 →
          idc[i] = some { l with data := l.data.set (lineIndex va) (w.onWord l.data[lineIndex va]) })))

/-! ### The invariant -/

/-- R80, R570: what the spec says of the machine after reset. -/
def Obligations.ResetState : Prop :=
  State.reset.pc = 0x00000000#32 ∧ State.reset.cpsr.mode = .svc ∧ State.reset.cpsr.i = true
  ∧ State.reset.cpsr.f = true ∧ State.reset.control = Control.zero
  ∧ State.reset.idc = Vector.replicate 256 none ∧ State.reset.writeBuffer = []

/-- The invariant of the model (R42, R75, R139, R140, and the canonical form of memory) holds after reset. -/
def Obligations.InvariantAtReset : Prop := Inv State.reset

/-- The same invariant is kept by every step, from every state that has it. -/
def Obligations.InvariantKept : Prop := ∀ s t : State, Inv s → step s = .next t → Inv t
end

