-- ==== Sys2Proof/Laws/Encoding.lean ====
section
/-! SUPPORT. Laws of instruction fields: reading a field out of a word that was put together from fields. -/

namespace Sys2Proof

theorem field_or (v w : Word) (lo len : Nat) : field (v ||| w) lo len = field v lo len ||| field w lo len := by
  ext i hi; simp [field]

theorem field_place_same {n : Nat} (lo : Nat) (v : BitVec n) (h : lo + n ≤ 32) : field (place lo v) lo n = v := by
  ext i hi
  have : lo + i < 32 := by omega
  simp [field, place, this, BitVec.getLsbD_eq_getElem hi]

theorem field_place_below {n : Nat} (lo : Nat) (v : BitVec n) (lo' len : Nat) (h : lo' + len ≤ lo) :
    field (place lo v) lo' len = 0#len := by
  ext i hi
  simp [field, place]; omega

theorem field_place_above {n : Nat} (lo : Nat) (v : BitVec n) (lo' len : Nat) (h : lo + n ≤ lo') :
    field (place lo v) lo' len = 0#len := by
  ext i hi
  simp [field, place]; intros; apply BitVec.getLsbD_of_ge; omega

theorem wbit_or (v w : Word) (i : Nat) : wbit (v ||| w) i = (wbit v i || wbit w i) := by simp [wbit]

theorem wbit_place_below {n : Nat} (lo : Nat) (v : BitVec n) (i : Nat) (h : i < lo) : wbit (place lo v) i = false := by
  simp [wbit, place]; omega

theorem wbit_place_above {n : Nat} (lo : Nat) (v : BitVec n) (i : Nat) (h : lo + n ≤ i) :
    wbit (place lo v) i = false := by
  simp [wbit, place]; intros; apply BitVec.getLsbD_of_ge; omega

theorem wbit_place_ofBool1 (lo : Nat) (b : Bool) (h : lo < 32) : wbit (place lo (ofBool1 b)) lo = b := by
  simp [wbit, place, ofBool1]; omega

@[simp] theorem Cond.ofBits_toBits (c : Cond) : Cond.ofBits c.toBits = c := by cases c <;> rfl
@[simp] theorem ShiftType.ofBits_toBits (c : ShiftType) : ShiftType.ofBits c.toBits = c := by cases c <;> rfl
@[simp] theorem AluOp.ofBits_toBits (c : AluOp) : AluOp.ofBits c.toBits = c := by cases c <;> rfl

/-- The four lanes of a word give the word. -/
theorem wordOfLanes_fields (w : Word) :
    wordOfLanes (field w 0 8) (field w 8 8) (field w 16 8) (field w 24 8) = w := by
  apply BitVec.eq_of_getLsbD_eq
  intro i hi
  simp only [wordOfLanes, place, field, BitVec.getLsbD_or, BitVec.getLsbD_shiftLeft, BitVec.getLsbD_setWidth,
    BitVec.getLsbD_extractLsb']
  interval_cases i <;> simp

end Sys2Proof
end

