-- ==== Sys2Proof/Laws/State.lean ====
section
/-! SUPPORT. What each update of the state leaves in each field: one lemma per field per update. -/

namespace Sys2Proof.Machine

open Sys2Proof

/-! ### advance -/

@[simp] theorem State.advance_regs (s : State) : s.advance.regs = s.regs := rfl
@[simp] theorem State.advance_pc (s : State) : s.advance.pc = s.pc + 4#32 := rfl
@[simp] theorem State.advance_cpsr (s : State) : s.advance.cpsr = s.cpsr := rfl
@[simp] theorem State.advance_spsrFiq (s : State) : s.advance.spsrFiq = s.spsrFiq := rfl
@[simp] theorem State.advance_spsrIrq (s : State) : s.advance.spsrIrq = s.spsrIrq := rfl
@[simp] theorem State.advance_spsrSvc (s : State) : s.advance.spsrSvc = s.spsrSvc := rfl
@[simp] theorem State.advance_spsrAbt (s : State) : s.advance.spsrAbt = s.spsrAbt := rfl
@[simp] theorem State.advance_spsrUnd (s : State) : s.advance.spsrUnd = s.spsrUnd := rfl
@[simp] theorem State.advance_control (s : State) : s.advance.control = s.control := rfl
@[simp] theorem State.advance_ttb (s : State) : s.advance.ttb = s.ttb := rfl
@[simp] theorem State.advance_dacr (s : State) : s.advance.dacr = s.dacr := rfl
@[simp] theorem State.advance_fsr (s : State) : s.advance.fsr = s.fsr := rfl
@[simp] theorem State.advance_far (s : State) : s.advance.far = s.far := rfl
@[simp] theorem State.advance_tlb (s : State) : s.advance.tlb = s.tlb := rfl
@[simp] theorem State.advance_tlbNext (s : State) : s.advance.tlbNext = s.tlbNext := rfl
@[simp] theorem State.advance_idc (s : State) : s.advance.idc = s.idc := rfl
@[simp] theorem State.advance_writeBuffer (s : State) : s.advance.writeBuffer = s.writeBuffer := rfl
@[simp] theorem State.advance_prefetch (s : State) : s.advance.prefetch = s.prefetch := rfl
@[simp] theorem State.advance_waiting (s : State) : s.advance.waiting = s.waiting := rfl
@[simp] theorem State.advance_hazard (s : State) : s.advance.hazard = s.hazard := rfl
@[simp] theorem State.advance_mem (s : State) : s.advance.mem = s.mem := rfl
@[simp] theorem State.advance_abortRanges (s : State) : s.advance.abortRanges = s.abortRanges := rfl
@[simp] theorem State.advance_busTape (s : State) : s.advance.busTape = s.busTape := rfl
@[simp] theorem State.advance_inputs (s : State) : s.advance.inputs = s.inputs := rfl
@[simp] theorem State.advance_coprocTape (s : State) : s.advance.coprocTape = s.coprocTape := rfl
@[simp] theorem State.advance_coprocSent (s : State) : s.advance.coprocSent = s.coprocSent := rfl
@[simp] theorem State.advance_cfg26 (s : State) : s.advance.cfg26 = s.cfg26 := rfl
@[simp] theorem State.advance_draws (s : State) : s.advance.draws = s.draws := rfl

/-! ### branchTo -/

@[simp] theorem State.branchTo_regs (s : State) (v : Word) : (s.branchTo v).regs = s.regs := rfl
@[simp] theorem State.branchTo_pc (s : State) (v : Word) : (s.branchTo v).pc = wordAddr v := rfl
@[simp] theorem State.branchTo_cpsr (s : State) (v : Word) : (s.branchTo v).cpsr = s.cpsr := rfl
@[simp] theorem State.branchTo_spsrFiq (s : State) (v : Word) : (s.branchTo v).spsrFiq = s.spsrFiq := rfl
@[simp] theorem State.branchTo_spsrIrq (s : State) (v : Word) : (s.branchTo v).spsrIrq = s.spsrIrq := rfl
@[simp] theorem State.branchTo_spsrSvc (s : State) (v : Word) : (s.branchTo v).spsrSvc = s.spsrSvc := rfl
@[simp] theorem State.branchTo_spsrAbt (s : State) (v : Word) : (s.branchTo v).spsrAbt = s.spsrAbt := rfl
@[simp] theorem State.branchTo_spsrUnd (s : State) (v : Word) : (s.branchTo v).spsrUnd = s.spsrUnd := rfl
@[simp] theorem State.branchTo_control (s : State) (v : Word) : (s.branchTo v).control = s.control := rfl
@[simp] theorem State.branchTo_ttb (s : State) (v : Word) : (s.branchTo v).ttb = s.ttb := rfl
@[simp] theorem State.branchTo_dacr (s : State) (v : Word) : (s.branchTo v).dacr = s.dacr := rfl
@[simp] theorem State.branchTo_fsr (s : State) (v : Word) : (s.branchTo v).fsr = s.fsr := rfl
@[simp] theorem State.branchTo_far (s : State) (v : Word) : (s.branchTo v).far = s.far := rfl
@[simp] theorem State.branchTo_tlb (s : State) (v : Word) : (s.branchTo v).tlb = s.tlb := rfl
@[simp] theorem State.branchTo_tlbNext (s : State) (v : Word) : (s.branchTo v).tlbNext = s.tlbNext := rfl
@[simp] theorem State.branchTo_idc (s : State) (v : Word) : (s.branchTo v).idc = s.idc := rfl
@[simp] theorem State.branchTo_writeBuffer (s : State) (v : Word) : (s.branchTo v).writeBuffer = s.writeBuffer := rfl
@[simp] theorem State.branchTo_prefetch (s : State) (v : Word) : (s.branchTo v).prefetch = [] := rfl
@[simp] theorem State.branchTo_waiting (s : State) (v : Word) : (s.branchTo v).waiting = s.waiting := rfl
@[simp] theorem State.branchTo_hazard (s : State) (v : Word) : (s.branchTo v).hazard = s.hazard := rfl
@[simp] theorem State.branchTo_mem (s : State) (v : Word) : (s.branchTo v).mem = s.mem := rfl
@[simp] theorem State.branchTo_abortRanges (s : State) (v : Word) : (s.branchTo v).abortRanges = s.abortRanges := rfl
@[simp] theorem State.branchTo_busTape (s : State) (v : Word) : (s.branchTo v).busTape = s.busTape := rfl
@[simp] theorem State.branchTo_inputs (s : State) (v : Word) : (s.branchTo v).inputs = s.inputs := rfl
@[simp] theorem State.branchTo_coprocTape (s : State) (v : Word) : (s.branchTo v).coprocTape = s.coprocTape := rfl
@[simp] theorem State.branchTo_coprocSent (s : State) (v : Word) : (s.branchTo v).coprocSent = s.coprocSent := rfl
@[simp] theorem State.branchTo_cfg26 (s : State) (v : Word) : (s.branchTo v).cfg26 = s.cfg26 := rfl
@[simp] theorem State.branchTo_draws (s : State) (v : Word) : (s.branchTo v).draws = s.draws := rfl

/-! ### setRegIn -/

@[simp] theorem State.setRegIn_regs (s : State) (m : Mode) (r : RegNum) (v : Word) : (s.setRegIn m r v).regs = s.regs.set (phys m r) v := rfl
@[simp] theorem State.setRegIn_pc (s : State) (m : Mode) (r : RegNum) (v : Word) : (s.setRegIn m r v).pc = s.pc := rfl
@[simp] theorem State.setRegIn_cpsr (s : State) (m : Mode) (r : RegNum) (v : Word) : (s.setRegIn m r v).cpsr = s.cpsr := rfl
@[simp] theorem State.setRegIn_spsrFiq (s : State) (m : Mode) (r : RegNum) (v : Word) : (s.setRegIn m r v).spsrFiq = s.spsrFiq := rfl
@[simp] theorem State.setRegIn_spsrIrq (s : State) (m : Mode) (r : RegNum) (v : Word) : (s.setRegIn m r v).spsrIrq = s.spsrIrq := rfl
@[simp] theorem State.setRegIn_spsrSvc (s : State) (m : Mode) (r : RegNum) (v : Word) : (s.setRegIn m r v).spsrSvc = s.spsrSvc := rfl
@[simp] theorem State.setRegIn_spsrAbt (s : State) (m : Mode) (r : RegNum) (v : Word) : (s.setRegIn m r v).spsrAbt = s.spsrAbt := rfl
@[simp] theorem State.setRegIn_spsrUnd (s : State) (m : Mode) (r : RegNum) (v : Word) : (s.setRegIn m r v).spsrUnd = s.spsrUnd := rfl
@[simp] theorem State.setRegIn_control (s : State) (m : Mode) (r : RegNum) (v : Word) : (s.setRegIn m r v).control = s.control := rfl
@[simp] theorem State.setRegIn_ttb (s : State) (m : Mode) (r : RegNum) (v : Word) : (s.setRegIn m r v).ttb = s.ttb := rfl
@[simp] theorem State.setRegIn_dacr (s : State) (m : Mode) (r : RegNum) (v : Word) : (s.setRegIn m r v).dacr = s.dacr := rfl
@[simp] theorem State.setRegIn_fsr (s : State) (m : Mode) (r : RegNum) (v : Word) : (s.setRegIn m r v).fsr = s.fsr := rfl
@[simp] theorem State.setRegIn_far (s : State) (m : Mode) (r : RegNum) (v : Word) : (s.setRegIn m r v).far = s.far := rfl
@[simp] theorem State.setRegIn_tlb (s : State) (m : Mode) (r : RegNum) (v : Word) : (s.setRegIn m r v).tlb = s.tlb := rfl
@[simp] theorem State.setRegIn_tlbNext (s : State) (m : Mode) (r : RegNum) (v : Word) : (s.setRegIn m r v).tlbNext = s.tlbNext := rfl
@[simp] theorem State.setRegIn_idc (s : State) (m : Mode) (r : RegNum) (v : Word) : (s.setRegIn m r v).idc = s.idc := rfl
@[simp] theorem State.setRegIn_writeBuffer (s : State) (m : Mode) (r : RegNum) (v : Word) : (s.setRegIn m r v).writeBuffer = s.writeBuffer := rfl
@[simp] theorem State.setRegIn_prefetch (s : State) (m : Mode) (r : RegNum) (v : Word) : (s.setRegIn m r v).prefetch = s.prefetch := rfl
@[simp] theorem State.setRegIn_waiting (s : State) (m : Mode) (r : RegNum) (v : Word) : (s.setRegIn m r v).waiting = s.waiting := rfl
@[simp] theorem State.setRegIn_hazard (s : State) (m : Mode) (r : RegNum) (v : Word) : (s.setRegIn m r v).hazard = s.hazard := rfl
@[simp] theorem State.setRegIn_mem (s : State) (m : Mode) (r : RegNum) (v : Word) : (s.setRegIn m r v).mem = s.mem := rfl
@[simp] theorem State.setRegIn_abortRanges (s : State) (m : Mode) (r : RegNum) (v : Word) : (s.setRegIn m r v).abortRanges = s.abortRanges := rfl
@[simp] theorem State.setRegIn_busTape (s : State) (m : Mode) (r : RegNum) (v : Word) : (s.setRegIn m r v).busTape = s.busTape := rfl
@[simp] theorem State.setRegIn_inputs (s : State) (m : Mode) (r : RegNum) (v : Word) : (s.setRegIn m r v).inputs = s.inputs := rfl
@[simp] theorem State.setRegIn_coprocTape (s : State) (m : Mode) (r : RegNum) (v : Word) : (s.setRegIn m r v).coprocTape = s.coprocTape := rfl
@[simp] theorem State.setRegIn_coprocSent (s : State) (m : Mode) (r : RegNum) (v : Word) : (s.setRegIn m r v).coprocSent = s.coprocSent := rfl
@[simp] theorem State.setRegIn_cfg26 (s : State) (m : Mode) (r : RegNum) (v : Word) : (s.setRegIn m r v).cfg26 = s.cfg26 := rfl
@[simp] theorem State.setRegIn_draws (s : State) (m : Mode) (r : RegNum) (v : Word) : (s.setRegIn m r v).draws = s.draws := rfl

/-! ### setReg -/

@[simp] theorem State.setReg_regs (s : State) (r : RegNum) (v : Word) : (s.setReg r v).regs = s.regs.set (phys s.cpsr.mode r) v := rfl
@[simp] theorem State.setReg_pc (s : State) (r : RegNum) (v : Word) : (s.setReg r v).pc = s.pc := rfl
@[simp] theorem State.setReg_cpsr (s : State) (r : RegNum) (v : Word) : (s.setReg r v).cpsr = s.cpsr := rfl
@[simp] theorem State.setReg_spsrFiq (s : State) (r : RegNum) (v : Word) : (s.setReg r v).spsrFiq = s.spsrFiq := rfl
@[simp] theorem State.setReg_spsrIrq (s : State) (r : RegNum) (v : Word) : (s.setReg r v).spsrIrq = s.spsrIrq := rfl
@[simp] theorem State.setReg_spsrSvc (s : State) (r : RegNum) (v : Word) : (s.setReg r v).spsrSvc = s.spsrSvc := rfl
@[simp] theorem State.setReg_spsrAbt (s : State) (r : RegNum) (v : Word) : (s.setReg r v).spsrAbt = s.spsrAbt := rfl
@[simp] theorem State.setReg_spsrUnd (s : State) (r : RegNum) (v : Word) : (s.setReg r v).spsrUnd = s.spsrUnd := rfl
@[simp] theorem State.setReg_control (s : State) (r : RegNum) (v : Word) : (s.setReg r v).control = s.control := rfl
@[simp] theorem State.setReg_ttb (s : State) (r : RegNum) (v : Word) : (s.setReg r v).ttb = s.ttb := rfl
@[simp] theorem State.setReg_dacr (s : State) (r : RegNum) (v : Word) : (s.setReg r v).dacr = s.dacr := rfl
@[simp] theorem State.setReg_fsr (s : State) (r : RegNum) (v : Word) : (s.setReg r v).fsr = s.fsr := rfl
@[simp] theorem State.setReg_far (s : State) (r : RegNum) (v : Word) : (s.setReg r v).far = s.far := rfl
@[simp] theorem State.setReg_tlb (s : State) (r : RegNum) (v : Word) : (s.setReg r v).tlb = s.tlb := rfl
@[simp] theorem State.setReg_tlbNext (s : State) (r : RegNum) (v : Word) : (s.setReg r v).tlbNext = s.tlbNext := rfl
@[simp] theorem State.setReg_idc (s : State) (r : RegNum) (v : Word) : (s.setReg r v).idc = s.idc := rfl
@[simp] theorem State.setReg_writeBuffer (s : State) (r : RegNum) (v : Word) : (s.setReg r v).writeBuffer = s.writeBuffer := rfl
@[simp] theorem State.setReg_prefetch (s : State) (r : RegNum) (v : Word) : (s.setReg r v).prefetch = s.prefetch := rfl
@[simp] theorem State.setReg_waiting (s : State) (r : RegNum) (v : Word) : (s.setReg r v).waiting = s.waiting := rfl
@[simp] theorem State.setReg_hazard (s : State) (r : RegNum) (v : Word) : (s.setReg r v).hazard = s.hazard := rfl
@[simp] theorem State.setReg_mem (s : State) (r : RegNum) (v : Word) : (s.setReg r v).mem = s.mem := rfl
@[simp] theorem State.setReg_abortRanges (s : State) (r : RegNum) (v : Word) : (s.setReg r v).abortRanges = s.abortRanges := rfl
@[simp] theorem State.setReg_busTape (s : State) (r : RegNum) (v : Word) : (s.setReg r v).busTape = s.busTape := rfl
@[simp] theorem State.setReg_inputs (s : State) (r : RegNum) (v : Word) : (s.setReg r v).inputs = s.inputs := rfl
@[simp] theorem State.setReg_coprocTape (s : State) (r : RegNum) (v : Word) : (s.setReg r v).coprocTape = s.coprocTape := rfl
@[simp] theorem State.setReg_coprocSent (s : State) (r : RegNum) (v : Word) : (s.setReg r v).coprocSent = s.coprocSent := rfl
@[simp] theorem State.setReg_cfg26 (s : State) (r : RegNum) (v : Word) : (s.setReg r v).cfg26 = s.cfg26 := rfl
@[simp] theorem State.setReg_draws (s : State) (r : RegNum) (v : Word) : (s.setReg r v).draws = s.draws := rfl

/-! ### bump -/

@[simp] theorem State.bump_regs (s : State) : s.bump.regs = s.regs := rfl
@[simp] theorem State.bump_pc (s : State) : s.bump.pc = s.pc := rfl
@[simp] theorem State.bump_cpsr (s : State) : s.bump.cpsr = s.cpsr := rfl
@[simp] theorem State.bump_spsrFiq (s : State) : s.bump.spsrFiq = s.spsrFiq := rfl
@[simp] theorem State.bump_spsrIrq (s : State) : s.bump.spsrIrq = s.spsrIrq := rfl
@[simp] theorem State.bump_spsrSvc (s : State) : s.bump.spsrSvc = s.spsrSvc := rfl
@[simp] theorem State.bump_spsrAbt (s : State) : s.bump.spsrAbt = s.spsrAbt := rfl
@[simp] theorem State.bump_spsrUnd (s : State) : s.bump.spsrUnd = s.spsrUnd := rfl
@[simp] theorem State.bump_control (s : State) : s.bump.control = s.control := rfl
@[simp] theorem State.bump_ttb (s : State) : s.bump.ttb = s.ttb := rfl
@[simp] theorem State.bump_dacr (s : State) : s.bump.dacr = s.dacr := rfl
@[simp] theorem State.bump_fsr (s : State) : s.bump.fsr = s.fsr := rfl
@[simp] theorem State.bump_far (s : State) : s.bump.far = s.far := rfl
@[simp] theorem State.bump_tlb (s : State) : s.bump.tlb = s.tlb := rfl
@[simp] theorem State.bump_tlbNext (s : State) : s.bump.tlbNext = s.tlbNext := rfl
@[simp] theorem State.bump_idc (s : State) : s.bump.idc = s.idc := rfl
@[simp] theorem State.bump_writeBuffer (s : State) : s.bump.writeBuffer = s.writeBuffer := rfl
@[simp] theorem State.bump_prefetch (s : State) : s.bump.prefetch = s.prefetch := rfl
@[simp] theorem State.bump_waiting (s : State) : s.bump.waiting = s.waiting := rfl
@[simp] theorem State.bump_hazard (s : State) : s.bump.hazard = s.hazard := rfl
@[simp] theorem State.bump_mem (s : State) : s.bump.mem = s.mem := rfl
@[simp] theorem State.bump_abortRanges (s : State) : s.bump.abortRanges = s.abortRanges := rfl
@[simp] theorem State.bump_busTape (s : State) : s.bump.busTape = s.busTape := rfl
@[simp] theorem State.bump_inputs (s : State) : s.bump.inputs = s.inputs := rfl
@[simp] theorem State.bump_coprocTape (s : State) : s.bump.coprocTape = s.coprocTape := rfl
@[simp] theorem State.bump_coprocSent (s : State) : s.bump.coprocSent = s.coprocSent := rfl
@[simp] theorem State.bump_cfg26 (s : State) : s.bump.cfg26 = s.cfg26 := rfl
@[simp] theorem State.bump_draws (s : State) : s.bump.draws = s.draws + 1 := rfl

/-! ### afterInstruction -/

@[simp] theorem State.afterInstruction_regs (s : State) : s.afterInstruction.regs = s.regs := rfl
@[simp] theorem State.afterInstruction_pc (s : State) : s.afterInstruction.pc = s.pc := rfl
@[simp] theorem State.afterInstruction_cpsr (s : State) : s.afterInstruction.cpsr = s.cpsr := rfl
@[simp] theorem State.afterInstruction_spsrFiq (s : State) : s.afterInstruction.spsrFiq = s.spsrFiq := rfl
@[simp] theorem State.afterInstruction_spsrIrq (s : State) : s.afterInstruction.spsrIrq = s.spsrIrq := rfl
@[simp] theorem State.afterInstruction_spsrSvc (s : State) : s.afterInstruction.spsrSvc = s.spsrSvc := rfl
@[simp] theorem State.afterInstruction_spsrAbt (s : State) : s.afterInstruction.spsrAbt = s.spsrAbt := rfl
@[simp] theorem State.afterInstruction_spsrUnd (s : State) : s.afterInstruction.spsrUnd = s.spsrUnd := rfl
@[simp] theorem State.afterInstruction_control (s : State) : s.afterInstruction.control = s.control := rfl
@[simp] theorem State.afterInstruction_ttb (s : State) : s.afterInstruction.ttb = s.ttb := rfl
@[simp] theorem State.afterInstruction_dacr (s : State) : s.afterInstruction.dacr = s.dacr := rfl
@[simp] theorem State.afterInstruction_fsr (s : State) : s.afterInstruction.fsr = s.fsr := rfl
@[simp] theorem State.afterInstruction_far (s : State) : s.afterInstruction.far = s.far := rfl
@[simp] theorem State.afterInstruction_tlb (s : State) : s.afterInstruction.tlb = s.tlb := rfl
@[simp] theorem State.afterInstruction_tlbNext (s : State) : s.afterInstruction.tlbNext = s.tlbNext := rfl
@[simp] theorem State.afterInstruction_idc (s : State) : s.afterInstruction.idc = s.idc := rfl
@[simp] theorem State.afterInstruction_writeBuffer (s : State) : s.afterInstruction.writeBuffer = s.writeBuffer := rfl
@[simp] theorem State.afterInstruction_prefetch (s : State) : s.afterInstruction.prefetch = s.prefetch := rfl
@[simp] theorem State.afterInstruction_waiting (s : State) : s.afterInstruction.waiting = s.waiting := rfl
@[simp] theorem State.afterInstruction_hazard (s : State) :
    s.afterInstruction.hazard = if s.waiting.isSome then s.hazard else s.hazard - 1 := rfl
@[simp] theorem State.afterInstruction_mem (s : State) : s.afterInstruction.mem = s.mem := rfl
@[simp] theorem State.afterInstruction_abortRanges (s : State) : s.afterInstruction.abortRanges = s.abortRanges := rfl
@[simp] theorem State.afterInstruction_busTape (s : State) : s.afterInstruction.busTape = s.busTape := rfl
@[simp] theorem State.afterInstruction_inputs (s : State) : s.afterInstruction.inputs = s.inputs := rfl
@[simp] theorem State.afterInstruction_coprocTape (s : State) : s.afterInstruction.coprocTape = s.coprocTape := rfl
@[simp] theorem State.afterInstruction_coprocSent (s : State) : s.afterInstruction.coprocSent = s.coprocSent := rfl
@[simp] theorem State.afterInstruction_cfg26 (s : State) : s.afterInstruction.cfg26 = s.cfg26 := rfl
@[simp] theorem State.afterInstruction_draws (s : State) : s.afterInstruction.draws = s.draws + 1 := rfl

/-! ### recordFault -/

@[simp] theorem State.recordFault_regs (s : State) (f : MemFault) (va : Word) : (s.recordFault f va).regs = s.regs := rfl
@[simp] theorem State.recordFault_pc (s : State) (f : MemFault) (va : Word) : (s.recordFault f va).pc = s.pc := rfl
@[simp] theorem State.recordFault_cpsr (s : State) (f : MemFault) (va : Word) : (s.recordFault f va).cpsr = s.cpsr := rfl
@[simp] theorem State.recordFault_spsrFiq (s : State) (f : MemFault) (va : Word) : (s.recordFault f va).spsrFiq = s.spsrFiq := rfl
@[simp] theorem State.recordFault_spsrIrq (s : State) (f : MemFault) (va : Word) : (s.recordFault f va).spsrIrq = s.spsrIrq := rfl
@[simp] theorem State.recordFault_spsrSvc (s : State) (f : MemFault) (va : Word) : (s.recordFault f va).spsrSvc = s.spsrSvc := rfl
@[simp] theorem State.recordFault_spsrAbt (s : State) (f : MemFault) (va : Word) : (s.recordFault f va).spsrAbt = s.spsrAbt := rfl
@[simp] theorem State.recordFault_spsrUnd (s : State) (f : MemFault) (va : Word) : (s.recordFault f va).spsrUnd = s.spsrUnd := rfl
@[simp] theorem State.recordFault_control (s : State) (f : MemFault) (va : Word) : (s.recordFault f va).control = s.control := rfl
@[simp] theorem State.recordFault_ttb (s : State) (f : MemFault) (va : Word) : (s.recordFault f va).ttb = s.ttb := rfl
@[simp] theorem State.recordFault_dacr (s : State) (f : MemFault) (va : Word) : (s.recordFault f va).dacr = s.dacr := rfl
@[simp] theorem State.recordFault_fsr (s : State) (f : MemFault) (va : Word) : (s.recordFault f va).fsr = f.fsr (Config.free .fsrUndefined s.draws) := rfl
@[simp] theorem State.recordFault_far (s : State) (f : MemFault) (va : Word) : (s.recordFault f va).far = va := rfl
@[simp] theorem State.recordFault_tlb (s : State) (f : MemFault) (va : Word) : (s.recordFault f va).tlb = s.tlb := rfl
@[simp] theorem State.recordFault_tlbNext (s : State) (f : MemFault) (va : Word) : (s.recordFault f va).tlbNext = s.tlbNext := rfl
@[simp] theorem State.recordFault_idc (s : State) (f : MemFault) (va : Word) : (s.recordFault f va).idc = s.idc := rfl
@[simp] theorem State.recordFault_writeBuffer (s : State) (f : MemFault) (va : Word) : (s.recordFault f va).writeBuffer = s.writeBuffer := rfl
@[simp] theorem State.recordFault_prefetch (s : State) (f : MemFault) (va : Word) : (s.recordFault f va).prefetch = s.prefetch := rfl
@[simp] theorem State.recordFault_waiting (s : State) (f : MemFault) (va : Word) : (s.recordFault f va).waiting = s.waiting := rfl
@[simp] theorem State.recordFault_hazard (s : State) (f : MemFault) (va : Word) : (s.recordFault f va).hazard = s.hazard := rfl
@[simp] theorem State.recordFault_mem (s : State) (f : MemFault) (va : Word) : (s.recordFault f va).mem = s.mem := rfl
@[simp] theorem State.recordFault_abortRanges (s : State) (f : MemFault) (va : Word) : (s.recordFault f va).abortRanges = s.abortRanges := rfl
@[simp] theorem State.recordFault_busTape (s : State) (f : MemFault) (va : Word) : (s.recordFault f va).busTape = s.busTape := rfl
@[simp] theorem State.recordFault_inputs (s : State) (f : MemFault) (va : Word) : (s.recordFault f va).inputs = s.inputs := rfl
@[simp] theorem State.recordFault_coprocTape (s : State) (f : MemFault) (va : Word) : (s.recordFault f va).coprocTape = s.coprocTape := rfl
@[simp] theorem State.recordFault_coprocSent (s : State) (f : MemFault) (va : Word) : (s.recordFault f va).coprocSent = s.coprocSent := rfl
@[simp] theorem State.recordFault_cfg26 (s : State) (f : MemFault) (va : Word) : (s.recordFault f va).cfg26 = s.cfg26 := rfl
@[simp] theorem State.recordFault_draws (s : State) (f : MemFault) (va : Word) : (s.recordFault f va).draws = s.draws + 1 := rfl

/-! ### tlbFill -/

@[simp] theorem State.tlbFill_regs (s : State) (e : TlbEntry) : (s.tlbFill e).regs = s.regs := rfl
@[simp] theorem State.tlbFill_pc (s : State) (e : TlbEntry) : (s.tlbFill e).pc = s.pc := rfl
@[simp] theorem State.tlbFill_cpsr (s : State) (e : TlbEntry) : (s.tlbFill e).cpsr = s.cpsr := rfl
@[simp] theorem State.tlbFill_spsrFiq (s : State) (e : TlbEntry) : (s.tlbFill e).spsrFiq = s.spsrFiq := rfl
@[simp] theorem State.tlbFill_spsrIrq (s : State) (e : TlbEntry) : (s.tlbFill e).spsrIrq = s.spsrIrq := rfl
@[simp] theorem State.tlbFill_spsrSvc (s : State) (e : TlbEntry) : (s.tlbFill e).spsrSvc = s.spsrSvc := rfl
@[simp] theorem State.tlbFill_spsrAbt (s : State) (e : TlbEntry) : (s.tlbFill e).spsrAbt = s.spsrAbt := rfl
@[simp] theorem State.tlbFill_spsrUnd (s : State) (e : TlbEntry) : (s.tlbFill e).spsrUnd = s.spsrUnd := rfl
@[simp] theorem State.tlbFill_control (s : State) (e : TlbEntry) : (s.tlbFill e).control = s.control := rfl
@[simp] theorem State.tlbFill_ttb (s : State) (e : TlbEntry) : (s.tlbFill e).ttb = s.ttb := rfl
@[simp] theorem State.tlbFill_dacr (s : State) (e : TlbEntry) : (s.tlbFill e).dacr = s.dacr := rfl
@[simp] theorem State.tlbFill_fsr (s : State) (e : TlbEntry) : (s.tlbFill e).fsr = s.fsr := rfl
@[simp] theorem State.tlbFill_far (s : State) (e : TlbEntry) : (s.tlbFill e).far = s.far := rfl
@[simp] theorem State.tlbFill_tlb (s : State) (e : TlbEntry) : (s.tlbFill e).tlb = s.tlb.set s.tlbNext (some e) := rfl
@[simp] theorem State.tlbFill_tlbNext (s : State) (e : TlbEntry) : (s.tlbFill e).tlbNext = s.tlbNext + 1 := rfl
@[simp] theorem State.tlbFill_idc (s : State) (e : TlbEntry) : (s.tlbFill e).idc = s.idc := rfl
@[simp] theorem State.tlbFill_writeBuffer (s : State) (e : TlbEntry) : (s.tlbFill e).writeBuffer = s.writeBuffer := rfl
@[simp] theorem State.tlbFill_prefetch (s : State) (e : TlbEntry) : (s.tlbFill e).prefetch = s.prefetch := rfl
@[simp] theorem State.tlbFill_waiting (s : State) (e : TlbEntry) : (s.tlbFill e).waiting = s.waiting := rfl
@[simp] theorem State.tlbFill_hazard (s : State) (e : TlbEntry) : (s.tlbFill e).hazard = s.hazard := rfl
@[simp] theorem State.tlbFill_mem (s : State) (e : TlbEntry) : (s.tlbFill e).mem = s.mem := rfl
@[simp] theorem State.tlbFill_abortRanges (s : State) (e : TlbEntry) : (s.tlbFill e).abortRanges = s.abortRanges := rfl
@[simp] theorem State.tlbFill_busTape (s : State) (e : TlbEntry) : (s.tlbFill e).busTape = s.busTape := rfl
@[simp] theorem State.tlbFill_inputs (s : State) (e : TlbEntry) : (s.tlbFill e).inputs = s.inputs := rfl
@[simp] theorem State.tlbFill_coprocTape (s : State) (e : TlbEntry) : (s.tlbFill e).coprocTape = s.coprocTape := rfl
@[simp] theorem State.tlbFill_coprocSent (s : State) (e : TlbEntry) : (s.tlbFill e).coprocSent = s.coprocSent := rfl
@[simp] theorem State.tlbFill_cfg26 (s : State) (e : TlbEntry) : (s.tlbFill e).cfg26 = s.cfg26 := rfl
@[simp] theorem State.tlbFill_draws (s : State) (e : TlbEntry) : (s.tlbFill e).draws = s.draws := rfl

/-! ### popAnswer -/

@[simp] theorem State.popAnswer_regs (s : State) : s.popAnswer.regs = s.regs := rfl
@[simp] theorem State.popAnswer_pc (s : State) : s.popAnswer.pc = s.pc := rfl
@[simp] theorem State.popAnswer_cpsr (s : State) : s.popAnswer.cpsr = s.cpsr := rfl
@[simp] theorem State.popAnswer_spsrFiq (s : State) : s.popAnswer.spsrFiq = s.spsrFiq := rfl
@[simp] theorem State.popAnswer_spsrIrq (s : State) : s.popAnswer.spsrIrq = s.spsrIrq := rfl
@[simp] theorem State.popAnswer_spsrSvc (s : State) : s.popAnswer.spsrSvc = s.spsrSvc := rfl
@[simp] theorem State.popAnswer_spsrAbt (s : State) : s.popAnswer.spsrAbt = s.spsrAbt := rfl
@[simp] theorem State.popAnswer_spsrUnd (s : State) : s.popAnswer.spsrUnd = s.spsrUnd := rfl
@[simp] theorem State.popAnswer_control (s : State) : s.popAnswer.control = s.control := rfl
@[simp] theorem State.popAnswer_ttb (s : State) : s.popAnswer.ttb = s.ttb := rfl
@[simp] theorem State.popAnswer_dacr (s : State) : s.popAnswer.dacr = s.dacr := rfl
@[simp] theorem State.popAnswer_fsr (s : State) : s.popAnswer.fsr = s.fsr := rfl
@[simp] theorem State.popAnswer_far (s : State) : s.popAnswer.far = s.far := rfl
@[simp] theorem State.popAnswer_tlb (s : State) : s.popAnswer.tlb = s.tlb := rfl
@[simp] theorem State.popAnswer_tlbNext (s : State) : s.popAnswer.tlbNext = s.tlbNext := rfl
@[simp] theorem State.popAnswer_idc (s : State) : s.popAnswer.idc = s.idc := rfl
@[simp] theorem State.popAnswer_writeBuffer (s : State) : s.popAnswer.writeBuffer = s.writeBuffer := rfl
@[simp] theorem State.popAnswer_prefetch (s : State) : s.popAnswer.prefetch = s.prefetch := rfl
@[simp] theorem State.popAnswer_waiting (s : State) : s.popAnswer.waiting = s.waiting := rfl
@[simp] theorem State.popAnswer_hazard (s : State) : s.popAnswer.hazard = s.hazard := rfl
@[simp] theorem State.popAnswer_mem (s : State) : s.popAnswer.mem = s.mem := rfl
@[simp] theorem State.popAnswer_abortRanges (s : State) : s.popAnswer.abortRanges = s.abortRanges := rfl
@[simp] theorem State.popAnswer_busTape (s : State) : s.popAnswer.busTape = s.busTape := rfl
@[simp] theorem State.popAnswer_inputs (s : State) : s.popAnswer.inputs = s.inputs := rfl
@[simp] theorem State.popAnswer_coprocTape (s : State) : s.popAnswer.coprocTape = s.coprocTape.tail := rfl
@[simp] theorem State.popAnswer_coprocSent (s : State) : s.popAnswer.coprocSent = s.coprocSent := rfl
@[simp] theorem State.popAnswer_cfg26 (s : State) : s.popAnswer.cfg26 = s.cfg26 := rfl
@[simp] theorem State.popAnswer_draws (s : State) : s.popAnswer.draws = s.draws := rfl

/-! ### sendCoproc -/

@[simp] theorem State.sendCoproc_regs (s : State) (w : Word) (l : List Word) : (s.sendCoproc w l).regs = s.regs := rfl
@[simp] theorem State.sendCoproc_pc (s : State) (w : Word) (l : List Word) : (s.sendCoproc w l).pc = s.pc := rfl
@[simp] theorem State.sendCoproc_cpsr (s : State) (w : Word) (l : List Word) : (s.sendCoproc w l).cpsr = s.cpsr := rfl
@[simp] theorem State.sendCoproc_spsrFiq (s : State) (w : Word) (l : List Word) : (s.sendCoproc w l).spsrFiq = s.spsrFiq := rfl
@[simp] theorem State.sendCoproc_spsrIrq (s : State) (w : Word) (l : List Word) : (s.sendCoproc w l).spsrIrq = s.spsrIrq := rfl
@[simp] theorem State.sendCoproc_spsrSvc (s : State) (w : Word) (l : List Word) : (s.sendCoproc w l).spsrSvc = s.spsrSvc := rfl
@[simp] theorem State.sendCoproc_spsrAbt (s : State) (w : Word) (l : List Word) : (s.sendCoproc w l).spsrAbt = s.spsrAbt := rfl
@[simp] theorem State.sendCoproc_spsrUnd (s : State) (w : Word) (l : List Word) : (s.sendCoproc w l).spsrUnd = s.spsrUnd := rfl
@[simp] theorem State.sendCoproc_control (s : State) (w : Word) (l : List Word) : (s.sendCoproc w l).control = s.control := rfl
@[simp] theorem State.sendCoproc_ttb (s : State) (w : Word) (l : List Word) : (s.sendCoproc w l).ttb = s.ttb := rfl
@[simp] theorem State.sendCoproc_dacr (s : State) (w : Word) (l : List Word) : (s.sendCoproc w l).dacr = s.dacr := rfl
@[simp] theorem State.sendCoproc_fsr (s : State) (w : Word) (l : List Word) : (s.sendCoproc w l).fsr = s.fsr := rfl
@[simp] theorem State.sendCoproc_far (s : State) (w : Word) (l : List Word) : (s.sendCoproc w l).far = s.far := rfl
@[simp] theorem State.sendCoproc_tlb (s : State) (w : Word) (l : List Word) : (s.sendCoproc w l).tlb = s.tlb := rfl
@[simp] theorem State.sendCoproc_tlbNext (s : State) (w : Word) (l : List Word) : (s.sendCoproc w l).tlbNext = s.tlbNext := rfl
@[simp] theorem State.sendCoproc_idc (s : State) (w : Word) (l : List Word) : (s.sendCoproc w l).idc = s.idc := rfl
@[simp] theorem State.sendCoproc_writeBuffer (s : State) (w : Word) (l : List Word) : (s.sendCoproc w l).writeBuffer = s.writeBuffer := rfl
@[simp] theorem State.sendCoproc_prefetch (s : State) (w : Word) (l : List Word) : (s.sendCoproc w l).prefetch = s.prefetch := rfl
@[simp] theorem State.sendCoproc_waiting (s : State) (w : Word) (l : List Word) : (s.sendCoproc w l).waiting = s.waiting := rfl
@[simp] theorem State.sendCoproc_hazard (s : State) (w : Word) (l : List Word) : (s.sendCoproc w l).hazard = s.hazard := rfl
@[simp] theorem State.sendCoproc_mem (s : State) (w : Word) (l : List Word) : (s.sendCoproc w l).mem = s.mem := rfl
@[simp] theorem State.sendCoproc_abortRanges (s : State) (w : Word) (l : List Word) : (s.sendCoproc w l).abortRanges = s.abortRanges := rfl
@[simp] theorem State.sendCoproc_busTape (s : State) (w : Word) (l : List Word) : (s.sendCoproc w l).busTape = s.busTape := rfl
@[simp] theorem State.sendCoproc_inputs (s : State) (w : Word) (l : List Word) : (s.sendCoproc w l).inputs = s.inputs := rfl
@[simp] theorem State.sendCoproc_coprocTape (s : State) (w : Word) (l : List Word) : (s.sendCoproc w l).coprocTape = s.coprocTape := rfl
@[simp] theorem State.sendCoproc_coprocSent (s : State) (w : Word) (l : List Word) : (s.sendCoproc w l).coprocSent = ⟨w, s.privileged, l⟩ :: s.coprocSent := rfl
@[simp] theorem State.sendCoproc_cfg26 (s : State) (w : Word) (l : List Word) : (s.sendCoproc w l).cfg26 = s.cfg26 := rfl
@[simp] theorem State.sendCoproc_draws (s : State) (w : Word) (l : List Word) : (s.sendCoproc w l).draws = s.draws := rfl

/-! ### busyWait -/

@[simp] theorem State.busyWait_regs (s : State) (w : Word) : (s.busyWait w).regs = s.regs := rfl
@[simp] theorem State.busyWait_pc (s : State) (w : Word) : (s.busyWait w).pc = s.pc := rfl
@[simp] theorem State.busyWait_cpsr (s : State) (w : Word) : (s.busyWait w).cpsr = s.cpsr := rfl
@[simp] theorem State.busyWait_spsrFiq (s : State) (w : Word) : (s.busyWait w).spsrFiq = s.spsrFiq := rfl
@[simp] theorem State.busyWait_spsrIrq (s : State) (w : Word) : (s.busyWait w).spsrIrq = s.spsrIrq := rfl
@[simp] theorem State.busyWait_spsrSvc (s : State) (w : Word) : (s.busyWait w).spsrSvc = s.spsrSvc := rfl
@[simp] theorem State.busyWait_spsrAbt (s : State) (w : Word) : (s.busyWait w).spsrAbt = s.spsrAbt := rfl
@[simp] theorem State.busyWait_spsrUnd (s : State) (w : Word) : (s.busyWait w).spsrUnd = s.spsrUnd := rfl
@[simp] theorem State.busyWait_control (s : State) (w : Word) : (s.busyWait w).control = s.control := rfl
@[simp] theorem State.busyWait_ttb (s : State) (w : Word) : (s.busyWait w).ttb = s.ttb := rfl
@[simp] theorem State.busyWait_dacr (s : State) (w : Word) : (s.busyWait w).dacr = s.dacr := rfl
@[simp] theorem State.busyWait_fsr (s : State) (w : Word) : (s.busyWait w).fsr = s.fsr := rfl
@[simp] theorem State.busyWait_far (s : State) (w : Word) : (s.busyWait w).far = s.far := rfl
@[simp] theorem State.busyWait_tlb (s : State) (w : Word) : (s.busyWait w).tlb = s.tlb := rfl
@[simp] theorem State.busyWait_tlbNext (s : State) (w : Word) : (s.busyWait w).tlbNext = s.tlbNext := rfl
@[simp] theorem State.busyWait_idc (s : State) (w : Word) : (s.busyWait w).idc = s.idc := rfl
@[simp] theorem State.busyWait_writeBuffer (s : State) (w : Word) : (s.busyWait w).writeBuffer = s.writeBuffer := rfl
@[simp] theorem State.busyWait_prefetch (s : State) (w : Word) : (s.busyWait w).prefetch = s.prefetch := rfl
@[simp] theorem State.busyWait_waiting (s : State) (w : Word) : (s.busyWait w).waiting = some w := rfl
@[simp] theorem State.busyWait_hazard (s : State) (w : Word) : (s.busyWait w).hazard = s.hazard := rfl
@[simp] theorem State.busyWait_mem (s : State) (w : Word) : (s.busyWait w).mem = s.mem := rfl
@[simp] theorem State.busyWait_abortRanges (s : State) (w : Word) : (s.busyWait w).abortRanges = s.abortRanges := rfl
@[simp] theorem State.busyWait_busTape (s : State) (w : Word) : (s.busyWait w).busTape = s.busTape := rfl
@[simp] theorem State.busyWait_inputs (s : State) (w : Word) : (s.busyWait w).inputs = s.inputs := rfl
@[simp] theorem State.busyWait_coprocTape (s : State) (w : Word) : (s.busyWait w).coprocTape = s.coprocTape := rfl
@[simp] theorem State.busyWait_coprocSent (s : State) (w : Word) : (s.busyWait w).coprocSent = s.coprocSent := rfl
@[simp] theorem State.busyWait_cfg26 (s : State) (w : Word) : (s.busyWait w).cfg26 = s.cfg26 := rfl
@[simp] theorem State.busyWait_draws (s : State) (w : Word) : (s.busyWait w).draws = s.draws := rfl

/-! ### popInputs -/

@[simp] theorem State.popInputs_regs (s : State) : s.popInputs.regs = s.regs := rfl
@[simp] theorem State.popInputs_pc (s : State) : s.popInputs.pc = s.pc := rfl
@[simp] theorem State.popInputs_cpsr (s : State) : s.popInputs.cpsr = s.cpsr := rfl
@[simp] theorem State.popInputs_spsrFiq (s : State) : s.popInputs.spsrFiq = s.spsrFiq := rfl
@[simp] theorem State.popInputs_spsrIrq (s : State) : s.popInputs.spsrIrq = s.spsrIrq := rfl
@[simp] theorem State.popInputs_spsrSvc (s : State) : s.popInputs.spsrSvc = s.spsrSvc := rfl
@[simp] theorem State.popInputs_spsrAbt (s : State) : s.popInputs.spsrAbt = s.spsrAbt := rfl
@[simp] theorem State.popInputs_spsrUnd (s : State) : s.popInputs.spsrUnd = s.spsrUnd := rfl
@[simp] theorem State.popInputs_control (s : State) : s.popInputs.control = s.control := rfl
@[simp] theorem State.popInputs_ttb (s : State) : s.popInputs.ttb = s.ttb := rfl
@[simp] theorem State.popInputs_dacr (s : State) : s.popInputs.dacr = s.dacr := rfl
@[simp] theorem State.popInputs_fsr (s : State) : s.popInputs.fsr = s.fsr := rfl
@[simp] theorem State.popInputs_far (s : State) : s.popInputs.far = s.far := rfl
@[simp] theorem State.popInputs_tlb (s : State) : s.popInputs.tlb = s.tlb := rfl
@[simp] theorem State.popInputs_tlbNext (s : State) : s.popInputs.tlbNext = s.tlbNext := rfl
@[simp] theorem State.popInputs_idc (s : State) : s.popInputs.idc = s.idc := rfl
@[simp] theorem State.popInputs_writeBuffer (s : State) : s.popInputs.writeBuffer = s.writeBuffer := rfl
@[simp] theorem State.popInputs_prefetch (s : State) : s.popInputs.prefetch = s.prefetch := rfl
@[simp] theorem State.popInputs_waiting (s : State) : s.popInputs.waiting = s.waiting := rfl
@[simp] theorem State.popInputs_hazard (s : State) : s.popInputs.hazard = s.hazard := rfl
@[simp] theorem State.popInputs_mem (s : State) : s.popInputs.mem = s.mem := rfl
@[simp] theorem State.popInputs_abortRanges (s : State) : s.popInputs.abortRanges = s.abortRanges := rfl
@[simp] theorem State.popInputs_busTape (s : State) : s.popInputs.busTape = s.busTape := rfl
@[simp] theorem State.popInputs_inputs (s : State) : s.popInputs.inputs = s.inputs.tail := rfl
@[simp] theorem State.popInputs_coprocTape (s : State) : s.popInputs.coprocTape = s.coprocTape := rfl
@[simp] theorem State.popInputs_coprocSent (s : State) : s.popInputs.coprocSent = s.coprocSent := rfl
@[simp] theorem State.popInputs_cfg26 (s : State) : s.popInputs.cfg26 = s.cfg26 := rfl
@[simp] theorem State.popInputs_draws (s : State) : s.popInputs.draws = s.draws := rfl

/-! ### tlbFlush -/

@[simp] theorem State.tlbFlush_regs (s : State) : s.tlbFlush.regs = s.regs := rfl
@[simp] theorem State.tlbFlush_pc (s : State) : s.tlbFlush.pc = s.pc := rfl
@[simp] theorem State.tlbFlush_cpsr (s : State) : s.tlbFlush.cpsr = s.cpsr := rfl
@[simp] theorem State.tlbFlush_spsrFiq (s : State) : s.tlbFlush.spsrFiq = s.spsrFiq := rfl
@[simp] theorem State.tlbFlush_spsrIrq (s : State) : s.tlbFlush.spsrIrq = s.spsrIrq := rfl
@[simp] theorem State.tlbFlush_spsrSvc (s : State) : s.tlbFlush.spsrSvc = s.spsrSvc := rfl
@[simp] theorem State.tlbFlush_spsrAbt (s : State) : s.tlbFlush.spsrAbt = s.spsrAbt := rfl
@[simp] theorem State.tlbFlush_spsrUnd (s : State) : s.tlbFlush.spsrUnd = s.spsrUnd := rfl
@[simp] theorem State.tlbFlush_control (s : State) : s.tlbFlush.control = s.control := rfl
@[simp] theorem State.tlbFlush_ttb (s : State) : s.tlbFlush.ttb = s.ttb := rfl
@[simp] theorem State.tlbFlush_dacr (s : State) : s.tlbFlush.dacr = s.dacr := rfl
@[simp] theorem State.tlbFlush_fsr (s : State) : s.tlbFlush.fsr = s.fsr := rfl
@[simp] theorem State.tlbFlush_far (s : State) : s.tlbFlush.far = s.far := rfl
@[simp] theorem State.tlbFlush_tlbNext (s : State) : s.tlbFlush.tlbNext = s.tlbNext := rfl
@[simp] theorem State.tlbFlush_idc (s : State) : s.tlbFlush.idc = s.idc := rfl
@[simp] theorem State.tlbFlush_writeBuffer (s : State) : s.tlbFlush.writeBuffer = s.writeBuffer := rfl
@[simp] theorem State.tlbFlush_prefetch (s : State) : s.tlbFlush.prefetch = s.prefetch := rfl
@[simp] theorem State.tlbFlush_waiting (s : State) : s.tlbFlush.waiting = s.waiting := rfl
@[simp] theorem State.tlbFlush_hazard (s : State) : s.tlbFlush.hazard = s.hazard := rfl
@[simp] theorem State.tlbFlush_mem (s : State) : s.tlbFlush.mem = s.mem := rfl
@[simp] theorem State.tlbFlush_abortRanges (s : State) : s.tlbFlush.abortRanges = s.abortRanges := rfl
@[simp] theorem State.tlbFlush_busTape (s : State) : s.tlbFlush.busTape = s.busTape := rfl
@[simp] theorem State.tlbFlush_inputs (s : State) : s.tlbFlush.inputs = s.inputs := rfl
@[simp] theorem State.tlbFlush_coprocTape (s : State) : s.tlbFlush.coprocTape = s.coprocTape := rfl
@[simp] theorem State.tlbFlush_coprocSent (s : State) : s.tlbFlush.coprocSent = s.coprocSent := rfl
@[simp] theorem State.tlbFlush_cfg26 (s : State) : s.tlbFlush.cfg26 = s.cfg26 := rfl
@[simp] theorem State.tlbFlush_draws (s : State) : s.tlbFlush.draws = s.draws := rfl

/-! ### tlbPurge -/

@[simp] theorem State.tlbPurge_regs (s : State) (va : Word) : (s.tlbPurge va).regs = s.regs := rfl
@[simp] theorem State.tlbPurge_pc (s : State) (va : Word) : (s.tlbPurge va).pc = s.pc := rfl
@[simp] theorem State.tlbPurge_cpsr (s : State) (va : Word) : (s.tlbPurge va).cpsr = s.cpsr := rfl
@[simp] theorem State.tlbPurge_spsrFiq (s : State) (va : Word) : (s.tlbPurge va).spsrFiq = s.spsrFiq := rfl
@[simp] theorem State.tlbPurge_spsrIrq (s : State) (va : Word) : (s.tlbPurge va).spsrIrq = s.spsrIrq := rfl
@[simp] theorem State.tlbPurge_spsrSvc (s : State) (va : Word) : (s.tlbPurge va).spsrSvc = s.spsrSvc := rfl
@[simp] theorem State.tlbPurge_spsrAbt (s : State) (va : Word) : (s.tlbPurge va).spsrAbt = s.spsrAbt := rfl
@[simp] theorem State.tlbPurge_spsrUnd (s : State) (va : Word) : (s.tlbPurge va).spsrUnd = s.spsrUnd := rfl
@[simp] theorem State.tlbPurge_control (s : State) (va : Word) : (s.tlbPurge va).control = s.control := rfl
@[simp] theorem State.tlbPurge_ttb (s : State) (va : Word) : (s.tlbPurge va).ttb = s.ttb := rfl
@[simp] theorem State.tlbPurge_dacr (s : State) (va : Word) : (s.tlbPurge va).dacr = s.dacr := rfl
@[simp] theorem State.tlbPurge_fsr (s : State) (va : Word) : (s.tlbPurge va).fsr = s.fsr := rfl
@[simp] theorem State.tlbPurge_far (s : State) (va : Word) : (s.tlbPurge va).far = s.far := rfl
@[simp] theorem State.tlbPurge_tlbNext (s : State) (va : Word) : (s.tlbPurge va).tlbNext = s.tlbNext := rfl
@[simp] theorem State.tlbPurge_idc (s : State) (va : Word) : (s.tlbPurge va).idc = s.idc := rfl
@[simp] theorem State.tlbPurge_writeBuffer (s : State) (va : Word) : (s.tlbPurge va).writeBuffer = s.writeBuffer := rfl
@[simp] theorem State.tlbPurge_prefetch (s : State) (va : Word) : (s.tlbPurge va).prefetch = s.prefetch := rfl
@[simp] theorem State.tlbPurge_waiting (s : State) (va : Word) : (s.tlbPurge va).waiting = s.waiting := rfl
@[simp] theorem State.tlbPurge_hazard (s : State) (va : Word) : (s.tlbPurge va).hazard = s.hazard := rfl
@[simp] theorem State.tlbPurge_mem (s : State) (va : Word) : (s.tlbPurge va).mem = s.mem := rfl
@[simp] theorem State.tlbPurge_abortRanges (s : State) (va : Word) : (s.tlbPurge va).abortRanges = s.abortRanges := rfl
@[simp] theorem State.tlbPurge_busTape (s : State) (va : Word) : (s.tlbPurge va).busTape = s.busTape := rfl
@[simp] theorem State.tlbPurge_inputs (s : State) (va : Word) : (s.tlbPurge va).inputs = s.inputs := rfl
@[simp] theorem State.tlbPurge_coprocTape (s : State) (va : Word) : (s.tlbPurge va).coprocTape = s.coprocTape := rfl
@[simp] theorem State.tlbPurge_coprocSent (s : State) (va : Word) : (s.tlbPurge va).coprocSent = s.coprocSent := rfl
@[simp] theorem State.tlbPurge_cfg26 (s : State) (va : Word) : (s.tlbPurge va).cfg26 = s.cfg26 := rfl
@[simp] theorem State.tlbPurge_draws (s : State) (va : Word) : (s.tlbPurge va).draws = s.draws := rfl

/-! ### idcFlush -/

@[simp] theorem State.idcFlush_regs (s : State) : s.idcFlush.regs = s.regs := rfl
@[simp] theorem State.idcFlush_pc (s : State) : s.idcFlush.pc = s.pc := rfl
@[simp] theorem State.idcFlush_cpsr (s : State) : s.idcFlush.cpsr = s.cpsr := rfl
@[simp] theorem State.idcFlush_spsrFiq (s : State) : s.idcFlush.spsrFiq = s.spsrFiq := rfl
@[simp] theorem State.idcFlush_spsrIrq (s : State) : s.idcFlush.spsrIrq = s.spsrIrq := rfl
@[simp] theorem State.idcFlush_spsrSvc (s : State) : s.idcFlush.spsrSvc = s.spsrSvc := rfl
@[simp] theorem State.idcFlush_spsrAbt (s : State) : s.idcFlush.spsrAbt = s.spsrAbt := rfl
@[simp] theorem State.idcFlush_spsrUnd (s : State) : s.idcFlush.spsrUnd = s.spsrUnd := rfl
@[simp] theorem State.idcFlush_control (s : State) : s.idcFlush.control = s.control := rfl
@[simp] theorem State.idcFlush_ttb (s : State) : s.idcFlush.ttb = s.ttb := rfl
@[simp] theorem State.idcFlush_dacr (s : State) : s.idcFlush.dacr = s.dacr := rfl
@[simp] theorem State.idcFlush_fsr (s : State) : s.idcFlush.fsr = s.fsr := rfl
@[simp] theorem State.idcFlush_far (s : State) : s.idcFlush.far = s.far := rfl
@[simp] theorem State.idcFlush_tlb (s : State) : s.idcFlush.tlb = s.tlb := rfl
@[simp] theorem State.idcFlush_tlbNext (s : State) : s.idcFlush.tlbNext = s.tlbNext := rfl
@[simp] theorem State.idcFlush_idc (s : State) : s.idcFlush.idc = Vector.replicate 256 none := rfl
@[simp] theorem State.idcFlush_writeBuffer (s : State) : s.idcFlush.writeBuffer = s.writeBuffer := rfl
@[simp] theorem State.idcFlush_prefetch (s : State) : s.idcFlush.prefetch = s.prefetch := rfl
@[simp] theorem State.idcFlush_waiting (s : State) : s.idcFlush.waiting = s.waiting := rfl
@[simp] theorem State.idcFlush_hazard (s : State) : s.idcFlush.hazard = s.hazard := rfl
@[simp] theorem State.idcFlush_mem (s : State) : s.idcFlush.mem = s.mem := rfl
@[simp] theorem State.idcFlush_abortRanges (s : State) : s.idcFlush.abortRanges = s.abortRanges := rfl
@[simp] theorem State.idcFlush_busTape (s : State) : s.idcFlush.busTape = s.busTape := rfl
@[simp] theorem State.idcFlush_inputs (s : State) : s.idcFlush.inputs = s.inputs := rfl
@[simp] theorem State.idcFlush_coprocTape (s : State) : s.idcFlush.coprocTape = s.coprocTape := rfl
@[simp] theorem State.idcFlush_coprocSent (s : State) : s.idcFlush.coprocSent = s.coprocSent := rfl
@[simp] theorem State.idcFlush_cfg26 (s : State) : s.idcFlush.cfg26 = s.cfg26 := rfl
@[simp] theorem State.idcFlush_draws (s : State) : s.idcFlush.draws = s.draws := rfl

/-! ### setSpsr -/

@[simp] theorem State.setSpsr_regs (s : State) (m : Mode) (p : Psr) : (s.setSpsr m p).regs = s.regs := by cases m <;> rfl
@[simp] theorem State.setSpsr_pc (s : State) (m : Mode) (p : Psr) : (s.setSpsr m p).pc = s.pc := by cases m <;> rfl
@[simp] theorem State.setSpsr_cpsr (s : State) (m : Mode) (p : Psr) : (s.setSpsr m p).cpsr = s.cpsr := by cases m <;> rfl
@[simp] theorem State.setSpsr_control (s : State) (m : Mode) (p : Psr) : (s.setSpsr m p).control = s.control := by cases m <;> rfl
@[simp] theorem State.setSpsr_ttb (s : State) (m : Mode) (p : Psr) : (s.setSpsr m p).ttb = s.ttb := by cases m <;> rfl
@[simp] theorem State.setSpsr_dacr (s : State) (m : Mode) (p : Psr) : (s.setSpsr m p).dacr = s.dacr := by cases m <;> rfl
@[simp] theorem State.setSpsr_fsr (s : State) (m : Mode) (p : Psr) : (s.setSpsr m p).fsr = s.fsr := by cases m <;> rfl
@[simp] theorem State.setSpsr_far (s : State) (m : Mode) (p : Psr) : (s.setSpsr m p).far = s.far := by cases m <;> rfl
@[simp] theorem State.setSpsr_tlb (s : State) (m : Mode) (p : Psr) : (s.setSpsr m p).tlb = s.tlb := by cases m <;> rfl
@[simp] theorem State.setSpsr_tlbNext (s : State) (m : Mode) (p : Psr) : (s.setSpsr m p).tlbNext = s.tlbNext := by cases m <;> rfl
@[simp] theorem State.setSpsr_idc (s : State) (m : Mode) (p : Psr) : (s.setSpsr m p).idc = s.idc := by cases m <;> rfl
@[simp] theorem State.setSpsr_writeBuffer (s : State) (m : Mode) (p : Psr) : (s.setSpsr m p).writeBuffer = s.writeBuffer := by cases m <;> rfl
@[simp] theorem State.setSpsr_prefetch (s : State) (m : Mode) (p : Psr) : (s.setSpsr m p).prefetch = s.prefetch := by cases m <;> rfl
@[simp] theorem State.setSpsr_waiting (s : State) (m : Mode) (p : Psr) : (s.setSpsr m p).waiting = s.waiting := by cases m <;> rfl
@[simp] theorem State.setSpsr_hazard (s : State) (m : Mode) (p : Psr) : (s.setSpsr m p).hazard = s.hazard := by cases m <;> rfl
@[simp] theorem State.setSpsr_mem (s : State) (m : Mode) (p : Psr) : (s.setSpsr m p).mem = s.mem := by cases m <;> rfl
@[simp] theorem State.setSpsr_abortRanges (s : State) (m : Mode) (p : Psr) : (s.setSpsr m p).abortRanges = s.abortRanges := by cases m <;> rfl
@[simp] theorem State.setSpsr_busTape (s : State) (m : Mode) (p : Psr) : (s.setSpsr m p).busTape = s.busTape := by cases m <;> rfl
@[simp] theorem State.setSpsr_inputs (s : State) (m : Mode) (p : Psr) : (s.setSpsr m p).inputs = s.inputs := by cases m <;> rfl
@[simp] theorem State.setSpsr_coprocTape (s : State) (m : Mode) (p : Psr) : (s.setSpsr m p).coprocTape = s.coprocTape := by cases m <;> rfl
@[simp] theorem State.setSpsr_coprocSent (s : State) (m : Mode) (p : Psr) : (s.setSpsr m p).coprocSent = s.coprocSent := by cases m <;> rfl
@[simp] theorem State.setSpsr_cfg26 (s : State) (m : Mode) (p : Psr) : (s.setSpsr m p).cfg26 = s.cfg26 := by cases m <;> rfl
@[simp] theorem State.setSpsr_draws (s : State) (m : Mode) (p : Psr) : (s.setSpsr m p).draws = s.draws := by cases m <;> rfl

/-! ### enter -/

@[simp] theorem State.enter_regs (s : State) (m : Mode) (vec ret : Word) (f : Bool) : (s.enter m vec ret f).regs = s.regs.set (phys m 14#4) ret := by cases m <;> rfl
@[simp] theorem State.enter_pc (s : State) (m : Mode) (vec ret : Word) (f : Bool) : (s.enter m vec ret f).pc = vec := by cases m <;> rfl
@[simp] theorem State.enter_cpsr (s : State) (m : Mode) (vec ret : Word) (f : Bool) : (s.enter m vec ret f).cpsr = { s.cpsr with mode := m, i := true, f := s.cpsr.f || f } := by cases m <;> rfl
@[simp] theorem State.enter_control (s : State) (m : Mode) (vec ret : Word) (f : Bool) : (s.enter m vec ret f).control = s.control := by cases m <;> rfl
@[simp] theorem State.enter_ttb (s : State) (m : Mode) (vec ret : Word) (f : Bool) : (s.enter m vec ret f).ttb = s.ttb := by cases m <;> rfl
@[simp] theorem State.enter_dacr (s : State) (m : Mode) (vec ret : Word) (f : Bool) : (s.enter m vec ret f).dacr = s.dacr := by cases m <;> rfl
@[simp] theorem State.enter_fsr (s : State) (m : Mode) (vec ret : Word) (f : Bool) : (s.enter m vec ret f).fsr = s.fsr := by cases m <;> rfl
@[simp] theorem State.enter_far (s : State) (m : Mode) (vec ret : Word) (f : Bool) : (s.enter m vec ret f).far = s.far := by cases m <;> rfl
@[simp] theorem State.enter_tlb (s : State) (m : Mode) (vec ret : Word) (f : Bool) : (s.enter m vec ret f).tlb = s.tlb := by cases m <;> rfl
@[simp] theorem State.enter_tlbNext (s : State) (m : Mode) (vec ret : Word) (f : Bool) : (s.enter m vec ret f).tlbNext = s.tlbNext := by cases m <;> rfl
@[simp] theorem State.enter_idc (s : State) (m : Mode) (vec ret : Word) (f : Bool) : (s.enter m vec ret f).idc = s.idc := by cases m <;> rfl
@[simp] theorem State.enter_writeBuffer (s : State) (m : Mode) (vec ret : Word) (f : Bool) : (s.enter m vec ret f).writeBuffer = s.writeBuffer := by cases m <;> rfl
@[simp] theorem State.enter_prefetch (s : State) (m : Mode) (vec ret : Word) (f : Bool) : (s.enter m vec ret f).prefetch = [] := by cases m <;> rfl
@[simp] theorem State.enter_waiting (s : State) (m : Mode) (vec ret : Word) (f : Bool) : (s.enter m vec ret f).waiting = none := by cases m <;> rfl
@[simp] theorem State.enter_hazard (s : State) (m : Mode) (vec ret : Word) (f : Bool) : (s.enter m vec ret f).hazard = s.hazard := by cases m <;> rfl
@[simp] theorem State.enter_mem (s : State) (m : Mode) (vec ret : Word) (f : Bool) : (s.enter m vec ret f).mem = s.mem := by cases m <;> rfl
@[simp] theorem State.enter_abortRanges (s : State) (m : Mode) (vec ret : Word) (f : Bool) : (s.enter m vec ret f).abortRanges = s.abortRanges := by cases m <;> rfl
@[simp] theorem State.enter_busTape (s : State) (m : Mode) (vec ret : Word) (f : Bool) : (s.enter m vec ret f).busTape = s.busTape := by cases m <;> rfl
@[simp] theorem State.enter_inputs (s : State) (m : Mode) (vec ret : Word) (f : Bool) : (s.enter m vec ret f).inputs = s.inputs := by cases m <;> rfl
@[simp] theorem State.enter_coprocTape (s : State) (m : Mode) (vec ret : Word) (f : Bool) : (s.enter m vec ret f).coprocTape = s.coprocTape := by cases m <;> rfl
@[simp] theorem State.enter_coprocSent (s : State) (m : Mode) (vec ret : Word) (f : Bool) : (s.enter m vec ret f).coprocSent = s.coprocSent := by cases m <;> rfl
@[simp] theorem State.enter_cfg26 (s : State) (m : Mode) (vec ret : Word) (f : Bool) : (s.enter m vec ret f).cfg26 = s.cfg26 := by cases m <;> rfl
@[simp] theorem State.enter_draws (s : State) (m : Mode) (vec ret : Word) (f : Bool) : (s.enter m vec ret f).draws = s.draws := by cases m <;> rfl

/-! ### writeBack -/

@[simp] theorem State.writeBack_regs (s : State) (rn : RegNum) (t : TransferAddr) : (s.writeBack rn t).regs = if t.wb then s.regs.set (phys s.cpsr.mode rn) t.moved else s.regs := by cases h : t.wb <;> simp [State.writeBack, h]
@[simp] theorem State.writeBack_pc (s : State) (rn : RegNum) (t : TransferAddr) : (s.writeBack rn t).pc = s.pc := by cases h : t.wb <;> simp [State.writeBack, h]
@[simp] theorem State.writeBack_cpsr (s : State) (rn : RegNum) (t : TransferAddr) : (s.writeBack rn t).cpsr = s.cpsr := by cases h : t.wb <;> simp [State.writeBack, h]
@[simp] theorem State.writeBack_spsrFiq (s : State) (rn : RegNum) (t : TransferAddr) : (s.writeBack rn t).spsrFiq = s.spsrFiq := by cases h : t.wb <;> simp [State.writeBack, h]
@[simp] theorem State.writeBack_spsrIrq (s : State) (rn : RegNum) (t : TransferAddr) : (s.writeBack rn t).spsrIrq = s.spsrIrq := by cases h : t.wb <;> simp [State.writeBack, h]
@[simp] theorem State.writeBack_spsrSvc (s : State) (rn : RegNum) (t : TransferAddr) : (s.writeBack rn t).spsrSvc = s.spsrSvc := by cases h : t.wb <;> simp [State.writeBack, h]
@[simp] theorem State.writeBack_spsrAbt (s : State) (rn : RegNum) (t : TransferAddr) : (s.writeBack rn t).spsrAbt = s.spsrAbt := by cases h : t.wb <;> simp [State.writeBack, h]
@[simp] theorem State.writeBack_spsrUnd (s : State) (rn : RegNum) (t : TransferAddr) : (s.writeBack rn t).spsrUnd = s.spsrUnd := by cases h : t.wb <;> simp [State.writeBack, h]
@[simp] theorem State.writeBack_control (s : State) (rn : RegNum) (t : TransferAddr) : (s.writeBack rn t).control = s.control := by cases h : t.wb <;> simp [State.writeBack, h]
@[simp] theorem State.writeBack_ttb (s : State) (rn : RegNum) (t : TransferAddr) : (s.writeBack rn t).ttb = s.ttb := by cases h : t.wb <;> simp [State.writeBack, h]
@[simp] theorem State.writeBack_dacr (s : State) (rn : RegNum) (t : TransferAddr) : (s.writeBack rn t).dacr = s.dacr := by cases h : t.wb <;> simp [State.writeBack, h]
@[simp] theorem State.writeBack_fsr (s : State) (rn : RegNum) (t : TransferAddr) : (s.writeBack rn t).fsr = s.fsr := by cases h : t.wb <;> simp [State.writeBack, h]
@[simp] theorem State.writeBack_far (s : State) (rn : RegNum) (t : TransferAddr) : (s.writeBack rn t).far = s.far := by cases h : t.wb <;> simp [State.writeBack, h]
@[simp] theorem State.writeBack_tlb (s : State) (rn : RegNum) (t : TransferAddr) : (s.writeBack rn t).tlb = s.tlb := by cases h : t.wb <;> simp [State.writeBack, h]
@[simp] theorem State.writeBack_tlbNext (s : State) (rn : RegNum) (t : TransferAddr) : (s.writeBack rn t).tlbNext = s.tlbNext := by cases h : t.wb <;> simp [State.writeBack, h]
@[simp] theorem State.writeBack_idc (s : State) (rn : RegNum) (t : TransferAddr) : (s.writeBack rn t).idc = s.idc := by cases h : t.wb <;> simp [State.writeBack, h]
@[simp] theorem State.writeBack_writeBuffer (s : State) (rn : RegNum) (t : TransferAddr) : (s.writeBack rn t).writeBuffer = s.writeBuffer := by cases h : t.wb <;> simp [State.writeBack, h]
@[simp] theorem State.writeBack_prefetch (s : State) (rn : RegNum) (t : TransferAddr) : (s.writeBack rn t).prefetch = s.prefetch := by cases h : t.wb <;> simp [State.writeBack, h]
@[simp] theorem State.writeBack_waiting (s : State) (rn : RegNum) (t : TransferAddr) : (s.writeBack rn t).waiting = s.waiting := by cases h : t.wb <;> simp [State.writeBack, h]
@[simp] theorem State.writeBack_hazard (s : State) (rn : RegNum) (t : TransferAddr) : (s.writeBack rn t).hazard = s.hazard := by cases h : t.wb <;> simp [State.writeBack, h]
@[simp] theorem State.writeBack_mem (s : State) (rn : RegNum) (t : TransferAddr) : (s.writeBack rn t).mem = s.mem := by cases h : t.wb <;> simp [State.writeBack, h]
@[simp] theorem State.writeBack_abortRanges (s : State) (rn : RegNum) (t : TransferAddr) : (s.writeBack rn t).abortRanges = s.abortRanges := by cases h : t.wb <;> simp [State.writeBack, h]
@[simp] theorem State.writeBack_busTape (s : State) (rn : RegNum) (t : TransferAddr) : (s.writeBack rn t).busTape = s.busTape := by cases h : t.wb <;> simp [State.writeBack, h]
@[simp] theorem State.writeBack_inputs (s : State) (rn : RegNum) (t : TransferAddr) : (s.writeBack rn t).inputs = s.inputs := by cases h : t.wb <;> simp [State.writeBack, h]
@[simp] theorem State.writeBack_coprocTape (s : State) (rn : RegNum) (t : TransferAddr) : (s.writeBack rn t).coprocTape = s.coprocTape := by cases h : t.wb <;> simp [State.writeBack, h]
@[simp] theorem State.writeBack_coprocSent (s : State) (rn : RegNum) (t : TransferAddr) : (s.writeBack rn t).coprocSent = s.coprocSent := by cases h : t.wb <;> simp [State.writeBack, h]
@[simp] theorem State.writeBack_cfg26 (s : State) (rn : RegNum) (t : TransferAddr) : (s.writeBack rn t).cfg26 = s.cfg26 := by cases h : t.wb <;> simp [State.writeBack, h]
@[simp] theorem State.writeBack_draws (s : State) (rn : RegNum) (t : TransferAddr) : (s.writeBack rn t).draws = s.draws := by cases h : t.wb <;> simp [State.writeBack, h]

/-! ### startHazard -/

@[simp] theorem State.startHazard_regs (s : State) (u : Bool) : (s.startHazard u).regs = s.regs := by unfold State.startHazard; split <;> rfl
@[simp] theorem State.startHazard_pc (s : State) (u : Bool) : (s.startHazard u).pc = s.pc := by unfold State.startHazard; split <;> rfl
@[simp] theorem State.startHazard_cpsr (s : State) (u : Bool) : (s.startHazard u).cpsr = s.cpsr := by unfold State.startHazard; split <;> rfl
@[simp] theorem State.startHazard_spsrFiq (s : State) (u : Bool) : (s.startHazard u).spsrFiq = s.spsrFiq := by unfold State.startHazard; split <;> rfl
@[simp] theorem State.startHazard_spsrIrq (s : State) (u : Bool) : (s.startHazard u).spsrIrq = s.spsrIrq := by unfold State.startHazard; split <;> rfl
@[simp] theorem State.startHazard_spsrSvc (s : State) (u : Bool) : (s.startHazard u).spsrSvc = s.spsrSvc := by unfold State.startHazard; split <;> rfl
@[simp] theorem State.startHazard_spsrAbt (s : State) (u : Bool) : (s.startHazard u).spsrAbt = s.spsrAbt := by unfold State.startHazard; split <;> rfl
@[simp] theorem State.startHazard_spsrUnd (s : State) (u : Bool) : (s.startHazard u).spsrUnd = s.spsrUnd := by unfold State.startHazard; split <;> rfl
@[simp] theorem State.startHazard_control (s : State) (u : Bool) : (s.startHazard u).control = s.control := by unfold State.startHazard; split <;> rfl
@[simp] theorem State.startHazard_ttb (s : State) (u : Bool) : (s.startHazard u).ttb = s.ttb := by unfold State.startHazard; split <;> rfl
@[simp] theorem State.startHazard_dacr (s : State) (u : Bool) : (s.startHazard u).dacr = s.dacr := by unfold State.startHazard; split <;> rfl
@[simp] theorem State.startHazard_fsr (s : State) (u : Bool) : (s.startHazard u).fsr = s.fsr := by unfold State.startHazard; split <;> rfl
@[simp] theorem State.startHazard_far (s : State) (u : Bool) : (s.startHazard u).far = s.far := by unfold State.startHazard; split <;> rfl
@[simp] theorem State.startHazard_tlb (s : State) (u : Bool) : (s.startHazard u).tlb = s.tlb := by unfold State.startHazard; split <;> rfl
@[simp] theorem State.startHazard_tlbNext (s : State) (u : Bool) : (s.startHazard u).tlbNext = s.tlbNext := by unfold State.startHazard; split <;> rfl
@[simp] theorem State.startHazard_idc (s : State) (u : Bool) : (s.startHazard u).idc = s.idc := by unfold State.startHazard; split <;> rfl
@[simp] theorem State.startHazard_writeBuffer (s : State) (u : Bool) : (s.startHazard u).writeBuffer = s.writeBuffer := by unfold State.startHazard; split <;> rfl
@[simp] theorem State.startHazard_prefetch (s : State) (u : Bool) : (s.startHazard u).prefetch = s.prefetch := by unfold State.startHazard; split <;> rfl
@[simp] theorem State.startHazard_waiting (s : State) (u : Bool) : (s.startHazard u).waiting = s.waiting := by unfold State.startHazard; split <;> rfl
@[simp] theorem State.startHazard_hazard (s : State) (u : Bool) : (s.startHazard u).hazard = if u && s.privileged then 2 else s.hazard := by unfold State.startHazard; split <;> rfl
@[simp] theorem State.startHazard_mem (s : State) (u : Bool) : (s.startHazard u).mem = s.mem := by unfold State.startHazard; split <;> rfl
@[simp] theorem State.startHazard_abortRanges (s : State) (u : Bool) : (s.startHazard u).abortRanges = s.abortRanges := by unfold State.startHazard; split <;> rfl
@[simp] theorem State.startHazard_busTape (s : State) (u : Bool) : (s.startHazard u).busTape = s.busTape := by unfold State.startHazard; split <;> rfl
@[simp] theorem State.startHazard_inputs (s : State) (u : Bool) : (s.startHazard u).inputs = s.inputs := by unfold State.startHazard; split <;> rfl
@[simp] theorem State.startHazard_coprocTape (s : State) (u : Bool) : (s.startHazard u).coprocTape = s.coprocTape := by unfold State.startHazard; split <;> rfl
@[simp] theorem State.startHazard_coprocSent (s : State) (u : Bool) : (s.startHazard u).coprocSent = s.coprocSent := by unfold State.startHazard; split <;> rfl
@[simp] theorem State.startHazard_cfg26 (s : State) (u : Bool) : (s.startHazard u).cfg26 = s.cfg26 := by unfold State.startHazard; split <;> rfl
@[simp] theorem State.startHazard_draws (s : State) (u : Bool) : (s.startHazard u).draws = s.draws := by unfold State.startHazard; split <;> rfl

/-! ### sendWord -/

@[simp] theorem State.sendWord_regs (s : State) (w : Word) : (s.sendWord w).regs = s.regs := by unfold State.sendWord; split <;> rfl
@[simp] theorem State.sendWord_pc (s : State) (w : Word) : (s.sendWord w).pc = s.pc := by unfold State.sendWord; split <;> rfl
@[simp] theorem State.sendWord_cpsr (s : State) (w : Word) : (s.sendWord w).cpsr = s.cpsr := by unfold State.sendWord; split <;> rfl
@[simp] theorem State.sendWord_spsrFiq (s : State) (w : Word) : (s.sendWord w).spsrFiq = s.spsrFiq := by unfold State.sendWord; split <;> rfl
@[simp] theorem State.sendWord_spsrIrq (s : State) (w : Word) : (s.sendWord w).spsrIrq = s.spsrIrq := by unfold State.sendWord; split <;> rfl
@[simp] theorem State.sendWord_spsrSvc (s : State) (w : Word) : (s.sendWord w).spsrSvc = s.spsrSvc := by unfold State.sendWord; split <;> rfl
@[simp] theorem State.sendWord_spsrAbt (s : State) (w : Word) : (s.sendWord w).spsrAbt = s.spsrAbt := by unfold State.sendWord; split <;> rfl
@[simp] theorem State.sendWord_spsrUnd (s : State) (w : Word) : (s.sendWord w).spsrUnd = s.spsrUnd := by unfold State.sendWord; split <;> rfl
@[simp] theorem State.sendWord_control (s : State) (w : Word) : (s.sendWord w).control = s.control := by unfold State.sendWord; split <;> rfl
@[simp] theorem State.sendWord_ttb (s : State) (w : Word) : (s.sendWord w).ttb = s.ttb := by unfold State.sendWord; split <;> rfl
@[simp] theorem State.sendWord_dacr (s : State) (w : Word) : (s.sendWord w).dacr = s.dacr := by unfold State.sendWord; split <;> rfl
@[simp] theorem State.sendWord_fsr (s : State) (w : Word) : (s.sendWord w).fsr = s.fsr := by unfold State.sendWord; split <;> rfl
@[simp] theorem State.sendWord_far (s : State) (w : Word) : (s.sendWord w).far = s.far := by unfold State.sendWord; split <;> rfl
@[simp] theorem State.sendWord_tlb (s : State) (w : Word) : (s.sendWord w).tlb = s.tlb := by unfold State.sendWord; split <;> rfl
@[simp] theorem State.sendWord_tlbNext (s : State) (w : Word) : (s.sendWord w).tlbNext = s.tlbNext := by unfold State.sendWord; split <;> rfl
@[simp] theorem State.sendWord_idc (s : State) (w : Word) : (s.sendWord w).idc = s.idc := by unfold State.sendWord; split <;> rfl
@[simp] theorem State.sendWord_writeBuffer (s : State) (w : Word) : (s.sendWord w).writeBuffer = s.writeBuffer := by unfold State.sendWord; split <;> rfl
@[simp] theorem State.sendWord_prefetch (s : State) (w : Word) : (s.sendWord w).prefetch = s.prefetch := by unfold State.sendWord; split <;> rfl
@[simp] theorem State.sendWord_waiting (s : State) (w : Word) : (s.sendWord w).waiting = s.waiting := by unfold State.sendWord; split <;> rfl
@[simp] theorem State.sendWord_hazard (s : State) (w : Word) : (s.sendWord w).hazard = s.hazard := by unfold State.sendWord; split <;> rfl
@[simp] theorem State.sendWord_mem (s : State) (w : Word) : (s.sendWord w).mem = s.mem := by unfold State.sendWord; split <;> rfl
@[simp] theorem State.sendWord_abortRanges (s : State) (w : Word) : (s.sendWord w).abortRanges = s.abortRanges := by unfold State.sendWord; split <;> rfl
@[simp] theorem State.sendWord_busTape (s : State) (w : Word) : (s.sendWord w).busTape = s.busTape := by unfold State.sendWord; split <;> rfl
@[simp] theorem State.sendWord_inputs (s : State) (w : Word) : (s.sendWord w).inputs = s.inputs := by unfold State.sendWord; split <;> rfl
@[simp] theorem State.sendWord_coprocTape (s : State) (w : Word) : (s.sendWord w).coprocTape = s.coprocTape := by unfold State.sendWord; split <;> rfl
@[simp] theorem State.sendWord_cfg26 (s : State) (w : Word) : (s.sendWord w).cfg26 = s.cfg26 := by unfold State.sendWord; split <;> rfl
@[simp] theorem State.sendWord_draws (s : State) (w : Word) : (s.sendWord w).draws = s.draws := by unfold State.sendWord; split <;> rfl

/-! ### otherMasters -/

@[simp] theorem State.otherMasters_regs (s : State) (a : BusAnswer) : (s.otherMasters a).regs = s.regs := rfl
@[simp] theorem State.otherMasters_pc (s : State) (a : BusAnswer) : (s.otherMasters a).pc = s.pc := rfl
@[simp] theorem State.otherMasters_cpsr (s : State) (a : BusAnswer) : (s.otherMasters a).cpsr = s.cpsr := rfl
@[simp] theorem State.otherMasters_spsrFiq (s : State) (a : BusAnswer) : (s.otherMasters a).spsrFiq = s.spsrFiq := rfl
@[simp] theorem State.otherMasters_spsrIrq (s : State) (a : BusAnswer) : (s.otherMasters a).spsrIrq = s.spsrIrq := rfl
@[simp] theorem State.otherMasters_spsrSvc (s : State) (a : BusAnswer) : (s.otherMasters a).spsrSvc = s.spsrSvc := rfl
@[simp] theorem State.otherMasters_spsrAbt (s : State) (a : BusAnswer) : (s.otherMasters a).spsrAbt = s.spsrAbt := rfl
@[simp] theorem State.otherMasters_spsrUnd (s : State) (a : BusAnswer) : (s.otherMasters a).spsrUnd = s.spsrUnd := rfl
@[simp] theorem State.otherMasters_control (s : State) (a : BusAnswer) : (s.otherMasters a).control = s.control := rfl
@[simp] theorem State.otherMasters_ttb (s : State) (a : BusAnswer) : (s.otherMasters a).ttb = s.ttb := rfl
@[simp] theorem State.otherMasters_dacr (s : State) (a : BusAnswer) : (s.otherMasters a).dacr = s.dacr := rfl
@[simp] theorem State.otherMasters_fsr (s : State) (a : BusAnswer) : (s.otherMasters a).fsr = s.fsr := rfl
@[simp] theorem State.otherMasters_far (s : State) (a : BusAnswer) : (s.otherMasters a).far = s.far := rfl
@[simp] theorem State.otherMasters_tlb (s : State) (a : BusAnswer) : (s.otherMasters a).tlb = s.tlb := rfl
@[simp] theorem State.otherMasters_tlbNext (s : State) (a : BusAnswer) : (s.otherMasters a).tlbNext = s.tlbNext := rfl
@[simp] theorem State.otherMasters_idc (s : State) (a : BusAnswer) : (s.otherMasters a).idc = s.idc := rfl
@[simp] theorem State.otherMasters_writeBuffer (s : State) (a : BusAnswer) : (s.otherMasters a).writeBuffer = s.writeBuffer := rfl
@[simp] theorem State.otherMasters_prefetch (s : State) (a : BusAnswer) : (s.otherMasters a).prefetch = s.prefetch := rfl
@[simp] theorem State.otherMasters_waiting (s : State) (a : BusAnswer) : (s.otherMasters a).waiting = s.waiting := rfl
@[simp] theorem State.otherMasters_hazard (s : State) (a : BusAnswer) : (s.otherMasters a).hazard = s.hazard := rfl
@[simp] theorem State.otherMasters_mem (s : State) (a : BusAnswer) : (s.otherMasters a).mem = applyDma a.dma s.mem := rfl
@[simp] theorem State.otherMasters_abortRanges (s : State) (a : BusAnswer) : (s.otherMasters a).abortRanges = s.abortRanges := rfl
@[simp] theorem State.otherMasters_busTape (s : State) (a : BusAnswer) : (s.otherMasters a).busTape = s.busTape := rfl
@[simp] theorem State.otherMasters_inputs (s : State) (a : BusAnswer) : (s.otherMasters a).inputs = s.inputs := rfl
@[simp] theorem State.otherMasters_coprocTape (s : State) (a : BusAnswer) : (s.otherMasters a).coprocTape = s.coprocTape := rfl
@[simp] theorem State.otherMasters_coprocSent (s : State) (a : BusAnswer) : (s.otherMasters a).coprocSent = s.coprocSent := rfl
@[simp] theorem State.otherMasters_cfg26 (s : State) (a : BusAnswer) : (s.otherMasters a).cfg26 = s.cfg26 := rfl
@[simp] theorem State.otherMasters_draws (s : State) (a : BusAnswer) : (s.otherMasters a).draws = s.draws := rfl

/-! ### idcFill -/

@[simp] theorem State.idcFill_regs (s : State) (l : IdcLine) : (s.idcFill l).regs = s.regs := rfl
@[simp] theorem State.idcFill_pc (s : State) (l : IdcLine) : (s.idcFill l).pc = s.pc := rfl
@[simp] theorem State.idcFill_cpsr (s : State) (l : IdcLine) : (s.idcFill l).cpsr = s.cpsr := rfl
@[simp] theorem State.idcFill_spsrFiq (s : State) (l : IdcLine) : (s.idcFill l).spsrFiq = s.spsrFiq := rfl
@[simp] theorem State.idcFill_spsrIrq (s : State) (l : IdcLine) : (s.idcFill l).spsrIrq = s.spsrIrq := rfl
@[simp] theorem State.idcFill_spsrSvc (s : State) (l : IdcLine) : (s.idcFill l).spsrSvc = s.spsrSvc := rfl
@[simp] theorem State.idcFill_spsrAbt (s : State) (l : IdcLine) : (s.idcFill l).spsrAbt = s.spsrAbt := rfl
@[simp] theorem State.idcFill_spsrUnd (s : State) (l : IdcLine) : (s.idcFill l).spsrUnd = s.spsrUnd := rfl
@[simp] theorem State.idcFill_control (s : State) (l : IdcLine) : (s.idcFill l).control = s.control := rfl
@[simp] theorem State.idcFill_ttb (s : State) (l : IdcLine) : (s.idcFill l).ttb = s.ttb := rfl
@[simp] theorem State.idcFill_dacr (s : State) (l : IdcLine) : (s.idcFill l).dacr = s.dacr := rfl
@[simp] theorem State.idcFill_fsr (s : State) (l : IdcLine) : (s.idcFill l).fsr = s.fsr := rfl
@[simp] theorem State.idcFill_far (s : State) (l : IdcLine) : (s.idcFill l).far = s.far := rfl
@[simp] theorem State.idcFill_tlb (s : State) (l : IdcLine) : (s.idcFill l).tlb = s.tlb := rfl
@[simp] theorem State.idcFill_tlbNext (s : State) (l : IdcLine) : (s.idcFill l).tlbNext = s.tlbNext := rfl
@[simp] theorem State.idcFill_idc (s : State) (l : IdcLine) : (s.idcFill l).idc = s.idc.set (Fin.ofNat 256 (Config.free .idcVictim s.draws).toNat) (some l) := rfl
@[simp] theorem State.idcFill_writeBuffer (s : State) (l : IdcLine) : (s.idcFill l).writeBuffer = s.writeBuffer := rfl
@[simp] theorem State.idcFill_prefetch (s : State) (l : IdcLine) : (s.idcFill l).prefetch = s.prefetch := rfl
@[simp] theorem State.idcFill_waiting (s : State) (l : IdcLine) : (s.idcFill l).waiting = s.waiting := rfl
@[simp] theorem State.idcFill_hazard (s : State) (l : IdcLine) : (s.idcFill l).hazard = s.hazard := rfl
@[simp] theorem State.idcFill_mem (s : State) (l : IdcLine) : (s.idcFill l).mem = s.mem := rfl
@[simp] theorem State.idcFill_abortRanges (s : State) (l : IdcLine) : (s.idcFill l).abortRanges = s.abortRanges := rfl
@[simp] theorem State.idcFill_busTape (s : State) (l : IdcLine) : (s.idcFill l).busTape = s.busTape := rfl
@[simp] theorem State.idcFill_inputs (s : State) (l : IdcLine) : (s.idcFill l).inputs = s.inputs := rfl
@[simp] theorem State.idcFill_coprocTape (s : State) (l : IdcLine) : (s.idcFill l).coprocTape = s.coprocTape := rfl
@[simp] theorem State.idcFill_coprocSent (s : State) (l : IdcLine) : (s.idcFill l).coprocSent = s.coprocSent := rfl
@[simp] theorem State.idcFill_cfg26 (s : State) (l : IdcLine) : (s.idcFill l).cfg26 = s.cfg26 := rfl
@[simp] theorem State.idcFill_draws (s : State) (l : IdcLine) : (s.idcFill l).draws = s.draws + 1 := rfl

/-! ### warmReset -/

@[simp] theorem State.warmReset_pc (s : State) : s.warmReset.pc = 0x00000000#32 := by simp only [State.warmReset]
@[simp] theorem State.warmReset_control (s : State) : s.warmReset.control = Control.zero := by simp only [State.warmReset]
@[simp] theorem State.warmReset_idc (s : State) : s.warmReset.idc = Vector.replicate 256 none := by simp only [State.warmReset]
@[simp] theorem State.warmReset_writeBuffer (s : State) : s.warmReset.writeBuffer = [] := by simp only [State.warmReset]
@[simp] theorem State.warmReset_prefetch (s : State) : s.warmReset.prefetch = [] := by simp only [State.warmReset]
@[simp] theorem State.warmReset_waiting (s : State) : s.warmReset.waiting = none := by simp only [State.warmReset]
@[simp] theorem State.warmReset_hazard (s : State) : s.warmReset.hazard = 0 := by simp only [State.warmReset]
@[simp] theorem State.warmReset_mem (s : State) : s.warmReset.mem = s.mem := by simp only [State.warmReset]
@[simp] theorem State.warmReset_abortRanges (s : State) : s.warmReset.abortRanges = s.abortRanges := by simp only [State.warmReset]
@[simp] theorem State.warmReset_busTape (s : State) : s.warmReset.busTape = s.busTape := by simp only [State.warmReset]
@[simp] theorem State.warmReset_inputs (s : State) : s.warmReset.inputs = s.inputs := by simp only [State.warmReset]
@[simp] theorem State.warmReset_coprocTape (s : State) : s.warmReset.coprocTape = s.coprocTape := by simp only [State.warmReset]
@[simp] theorem State.warmReset_coprocSent (s : State) : s.warmReset.coprocSent = s.coprocSent := by simp only [State.warmReset]
@[simp] theorem State.warmReset_cfg26 (s : State) : s.warmReset.cfg26 = s.cfg26 := by simp only [State.warmReset]
@[simp] theorem State.warmReset_draws (s : State) : s.warmReset.draws = s.draws + 1 := by simp only [State.warmReset]

/-! ### Privilege and SPSR -/

@[simp] theorem State.advance_privileged (s : State) : s.advance.privileged = s.privileged := rfl
@[simp] theorem State.setRegIn_privileged (s : State) (m : Mode) (r : RegNum) (v : Word) :
    (s.setRegIn m r v).privileged = s.privileged := rfl
@[simp] theorem State.setReg_privileged (s : State) (r : RegNum) (v : Word) :
    (s.setReg r v).privileged = s.privileged := rfl
@[simp] theorem State.advance_spsr (s : State) : s.advance.spsr = s.spsr := by
  unfold State.spsr State.spsrOf; rfl
@[simp] theorem State.branchTo_spsr (s : State) (v : Word) : (s.branchTo v).spsr = s.spsr := by
  unfold State.spsr State.spsrOf; rfl

end Sys2Proof.Machine
end

