-- ==== Sys2Proof/Laws/Memory.lean ====
section
/-! SUPPORT. Laws of physical memory: the canonical form is kept, a read after a write. -/

namespace Sys2Proof.Machine

open Sys2Proof

theorem Memory.wfFrom_cons {lo k : Nat} {v : Byte} {rest : Memory} :
    Memory.wfFrom lo ((k, v) :: rest) = true ↔
      lo ≤ k ∧ k < 2 ^ 32 ∧ v ≠ unlistedByte ∧ Memory.wfFrom (k + 1) rest = true := by
  simp [Memory.wfFrom, and_assoc]

theorem Memory.wfFrom_mono {lo lo' : Nat} {m : Memory} (hl : lo' ≤ lo) (h : Memory.wfFrom lo m = true) :
    Memory.wfFrom lo' m = true := by
  cases m with
  | nil => rfl
  | cons e rest =>
    obtain ⟨k, v⟩ := e
    rw [Memory.wfFrom_cons] at h ⊢
    exact ⟨hl.trans h.1, h.2⟩

theorem Memory.wfFrom_put {lo a : Nat} {v : Byte} {rest : Memory} (hl : lo ≤ a) (ha : a < 2 ^ 32)
    (h : Memory.wfFrom (a + 1) rest = true) : Memory.wfFrom lo (Memory.put a v rest) = true := by
  unfold Memory.put
  split
  · exact Memory.wfFrom_mono (by omega) h
  · rw [Memory.wfFrom_cons]; exact ⟨hl, ha, ‹_›, h⟩

/-- Every write below 2^32 keeps the canonical form. -/
theorem Memory.wfFrom_write {m : Memory} {lo a : Nat} {v : Byte} (hl : lo ≤ a) (ha : a < 2 ^ 32)
    (h : Memory.wfFrom lo m = true) : Memory.wfFrom lo (Memory.write m a v) = true := by
  induction m generalizing lo with
  | nil => exact Memory.wfFrom_put hl ha rfl
  | cons e rest ih =>
    obtain ⟨k, w⟩ := e
    rw [Memory.wfFrom_cons] at h
    unfold Memory.write
    split
    · exact Memory.wfFrom_put hl ha (Memory.wfFrom_cons.2 ⟨by omega, h.2⟩)
    · split
      · subst a; exact Memory.wfFrom_put hl ha h.2.2.2
      · exact Memory.wfFrom_cons.2 ⟨h.1, h.2.1, h.2.2.1, ih (by omega) h.2.2.2⟩

theorem Memory.wf_write {m : Memory} {a : Nat} {v : Byte} (ha : a < 2 ^ 32) (h : Memory.wf m = true) :
    Memory.wf (Memory.write m a v) = true := Memory.wfFrom_write (Nat.zero_le a) ha h

/-- Below the first listed address nothing is listed. -/
theorem Memory.read_below {m : Memory} {lo a : Nat} (h : Memory.wfFrom lo m = true) (ha : a < lo) :
    Memory.read m a = unlistedByte := by
  induction m generalizing lo with
  | nil => rfl
  | cons e rest ih =>
    obtain ⟨k, v⟩ := e
    rw [Memory.wfFrom_cons] at h
    rw [Memory.read, if_neg (by omega)]
    exact ih h.2.2.2 (by omega)

theorem Memory.read_put_other {a b : Nat} {v : Byte} {rest : Memory} (hb : b ≠ a) :
    Memory.read (Memory.put a v rest) b = Memory.read rest b := by
  unfold Memory.put
  split
  · rfl
  · rw [Memory.read, if_neg hb]

theorem Memory.read_put_same {a : Nat} {v : Byte} {rest : Memory} (h : Memory.wfFrom (a + 1) rest = true) :
    Memory.read (Memory.put a v rest) a = v := by
  unfold Memory.put
  split
  · rename_i hv; rw [Memory.read_below h (by omega), hv]
  · rw [Memory.read, if_pos rfl]

/-- A write leaves every other cell alone. -/
theorem Memory.read_write_other {m : Memory} {a b : Nat} {v : Byte} (hb : b ≠ a) :
    Memory.read (Memory.write m a v) b = Memory.read m b := by
  induction m with
  | nil => exact Memory.read_put_other hb
  | cons e rest ih =>
    obtain ⟨k, w⟩ := e
    unfold Memory.write
    split
    · exact Memory.read_put_other hb
    · split
      · subst a; rw [Memory.read_put_other hb, Memory.read, if_neg hb]
      · simp only [Memory.read, ih]

/-- A read after a write to the same cell of a canonical memory gives the value written. -/
theorem Memory.read_write_same {m : Memory} {lo a : Nat} {v : Byte} (h : Memory.wfFrom lo m = true) :
    Memory.read (Memory.write m a v) a = v := by
  induction m generalizing lo with
  | nil => exact Memory.read_put_same rfl
  | cons e rest ih =>
    obtain ⟨k, w⟩ := e
    rw [Memory.wfFrom_cons] at h
    unfold Memory.write
    split
    · exact Memory.read_put_same (Memory.wfFrom_cons.2 ⟨by omega, h.2⟩)
    · split
      · subst a; exact Memory.read_put_same h.2.2.2
      · rw [Memory.read, if_neg (by omega)]; exact ih h.2.2.2

/-! ### Words and lanes -/

theorem wordAddr_toNat (a : Word) : (wordAddr a).toNat = a.toNat / 4 * 4 := by
  have h := a.isLt
  simp only [wordAddr, BitVec.toNat_shiftLeft, BitVec.toNat_ushiftRight, Nat.shiftRight_eq_div_pow,
    Nat.shiftLeft_eq]
  omega

theorem wordAddr_lt (a : Word) : (wordAddr a).toNat + 3 < 2 ^ 32 := by
  have h := a.isLt
  rw [wordAddr_toNat]; omega

theorem laneBits_wordAddr (a : Word) : laneBits (wordAddr a) = 0#2 := by
  apply BitVec.eq_of_toNat_eq
  simp only [laneBits, BitVec.extractLsb'_toNat, wordAddr_toNat, Nat.shiftRight_zero, BitVec.toNat_ofNat]
  omega

theorem wordAddr_of_aligned {a : Word} (h : laneBits a = 0#2) : wordAddr a = a := by
  apply BitVec.eq_of_toNat_eq
  have h' : (laneBits a).toNat = 0 := by rw [h]; rfl
  simp only [laneBits, BitVec.extractLsb'_toNat, Nat.shiftRight_zero] at h'
  rw [wordAddr_toNat]; omega

theorem wordAddr_wordAddr (a : Word) : wordAddr (wordAddr a) = wordAddr a :=
  wordAddr_of_aligned (laneBits_wordAddr a)

/-- An aligned address plus 4 is aligned. -/
theorem laneBits_add_four {a : Word} (h : laneBits a = 0#2) : laneBits (a + 4#32) = 0#2 := by
  have h' : (laneBits a).toNat = 0 := by rw [h]; rfl
  simp only [laneBits, BitVec.extractLsb'_toNat, Nat.shiftRight_zero] at h'
  apply BitVec.eq_of_toNat_eq
  simp only [laneBits, BitVec.extractLsb'_toNat, Nat.shiftRight_zero, BitVec.toNat_add, BitVec.toNat_ofNat]
  omega

theorem Memory.wf_writeWord {m : Memory} (a v : Word) (h : Memory.wf m = true) :
    Memory.wf (Memory.writeWord m a v) = true := by
  have ha := wordAddr_lt a
  exact Memory.wf_write (by omega) (Memory.wf_write (by omega) (Memory.wf_write (by omega)
    (Memory.wf_write (by omega) h)))

theorem Memory.wf_writeLane {m : Memory} (a : Word) (k : BitVec 2) (v : Byte) (h : Memory.wf m = true) :
    Memory.wf (Memory.writeLane m a k v) = true := by
  have ha := wordAddr_lt a
  have hk := k.isLt
  exact Memory.wf_write (by omega) h

/-- A word write leaves every cell outside its four bytes alone. -/
theorem Memory.read_writeWord_other {m : Memory} {a v : Word} {b : Nat}
    (hb : b < (wordAddr a).toNat ∨ (wordAddr a).toNat + 4 ≤ b) :
    Memory.read (Memory.writeWord m a v) b = Memory.read m b := by
  unfold Memory.writeWord
  simp only
  rw [Memory.read_write_other (by omega), Memory.read_write_other (by omega), Memory.read_write_other (by omega),
    Memory.read_write_other (by omega)]

theorem Memory.read_writeLane_other {m : Memory} {a : Word} {k : BitVec 2} {v : Byte} {b : Nat}
    (hb : b ≠ (wordAddr a).toNat + k.toNat) :
    Memory.read (Memory.writeLane m a k v) b = Memory.read m b := Memory.read_write_other hb

theorem wordOfLanes_getLane (v : Word) :
    wordOfLanes (getLane v 0#2) (getLane v 1#2) (getLane v 2#2) (getLane v 3#2) = v := by
  exact wordOfLanes_fields v

/-- A word read after a word write to the same word gives the word written. -/
theorem Memory.readWord_writeWord {m : Memory} (a v : Word) (h : Memory.wf m = true) :
    Memory.readWord (Memory.writeWord m a v) a = v := by
  have ha := wordAddr_lt a
  have h0 : Memory.wf (Memory.write m (wordAddr a).toNat (getLane v 0#2)) = true := Memory.wf_write (by omega) h
  have h1 := Memory.wf_write (a := (wordAddr a).toNat + 1) (v := getLane v 1#2) (by omega) h0
  have h2 := Memory.wf_write (a := (wordAddr a).toNat + 2) (v := getLane v 2#2) (by omega) h1
  have e3 : Memory.read (Memory.writeWord m a v) ((wordAddr a).toNat + 3) = getLane v 3#2 := by
    unfold Memory.writeWord; exact Memory.read_write_same h2
  have e2 : Memory.read (Memory.writeWord m a v) ((wordAddr a).toNat + 2) = getLane v 2#2 := by
    unfold Memory.writeWord; simp only
    rw [Memory.read_write_other (by omega)]; exact Memory.read_write_same h1
  have e1 : Memory.read (Memory.writeWord m a v) ((wordAddr a).toNat + 1) = getLane v 1#2 := by
    unfold Memory.writeWord; simp only
    rw [Memory.read_write_other (by omega), Memory.read_write_other (by omega)]; exact Memory.read_write_same h0
  have e0 : Memory.read (Memory.writeWord m a v) (wordAddr a).toNat = getLane v 0#2 := by
    unfold Memory.writeWord; simp only
    rw [Memory.read_write_other (by omega), Memory.read_write_other (by omega), Memory.read_write_other (by omega)]
    exact Memory.read_write_same h
  unfold Memory.readWord
  simp only [e0, e1, e2, e3]
  exact wordOfLanes_getLane v

/-- A bus write keeps the canonical form. -/
theorem BusWrite.wf_onMemory (w : BusWrite) {m : Memory} (pa : Word) (h : Memory.wf m = true) :
    Memory.wf (w.onMemory m pa) = true := by
  cases w with
  | word v => exact Memory.wf_writeWord pa v h
  | lane k v => exact Memory.wf_writeLane pa k v h

/-- The words of other bus masters keep the canonical form. -/
theorem wf_applyDma {l : List (Word × Word)} {m : Memory} (h : Memory.wf m = true) : Memory.wf (applyDma l m) = true := by
  induction l generalizing m with
  | nil => exact h
  | cons p rest ih => exact ih (Memory.wf_writeWord p.1 p.2 h)

end Sys2Proof.Machine
end

