-- ==== Sys2Proof/Laws/Access.lean ====
section
/-! SUPPORT. What a memory access can do: the frame of every access, the memory the processor sees (a read leaves it
alone), the bounds of the write buffer, and when an access ends its instruction. -/

namespace Sys2Proof.Machine

open Sys2Proof

theorem AccessFrame.refl (s : State) : AccessFrame s s := by constructor <;> rfl

theorem AccessFrame.trans {s t u : State} (h : AccessFrame s t) (k : AccessFrame t u) : AccessFrame s u where
  regs := k.regs.trans h.regs
  pc := k.pc.trans h.pc
  cpsr := k.cpsr.trans h.cpsr
  spsrFiq := k.spsrFiq.trans h.spsrFiq
  spsrIrq := k.spsrIrq.trans h.spsrIrq
  spsrSvc := k.spsrSvc.trans h.spsrSvc
  spsrAbt := k.spsrAbt.trans h.spsrAbt
  spsrUnd := k.spsrUnd.trans h.spsrUnd
  control := k.control.trans h.control
  ttb := k.ttb.trans h.ttb
  dacr := k.dacr.trans h.dacr
  fsr := k.fsr.trans h.fsr
  far := k.far.trans h.far
  prefetch := k.prefetch.trans h.prefetch
  waiting := k.waiting.trans h.waiting
  hazard := k.hazard.trans h.hazard
  abortRanges := k.abortRanges.trans h.abortRanges
  inputs := k.inputs.trans h.inputs
  coprocTape := k.coprocTape.trans h.coprocTape
  coprocSent := k.coprocSent.trans h.coprocSent
  cfg26 := k.cfg26.trans h.cfg26

/-- The part of the invariant that memory accesses can touch. -/
structure MemOk (s : State) : Prop where
  memory : Memory.wf s.mem = true
  words : s.writeBuffer.length ≤ 8
  runs : wbRuns s.writeBuffer ≤ 2

/-- What a write may do: the frame, some answers of the bus used up, and the memory part of the invariant kept. -/
structure Kept (s t : State) : Prop where
  frame : AccessFrame s t
  tape : t.busTape <:+ s.busTape
  ok : MemOk s → MemOk t

/-- What a read may do: in addition the memory the processor sees stays, but for what other bus masters write. -/
structure ReadKept (s t : State) : Prop extends Kept s t where
  settled : s.calm → t.settledMem = s.settledMem

theorem Kept.calm {s t : State} (h : Kept s t) (c : s.calm) : t.calm := fun a m => c a (h.tape.subset m)

theorem Kept.refl (s : State) : Kept s s := ⟨AccessFrame.refl s, List.suffix_rfl, id⟩
theorem Kept.trans {s t u : State} (h : Kept s t) (k : Kept t u) : Kept s u :=
  ⟨h.frame.trans k.frame, k.tape.trans h.tape, fun o => k.ok (h.ok o)⟩
theorem ReadKept.refl (s : State) : ReadKept s s := ⟨Kept.refl s, fun _ => rfl⟩
theorem ReadKept.trans {s t u : State} (h : ReadKept s t) (k : ReadKept t u) : ReadKept s u :=
  ⟨h.toKept.trans k.toKept, fun c => (k.settled (h.toKept.calm c)).trans (h.settled c)⟩

/-- What an access from `s` can come to: a state that is in the relation `R` to `s`, done or aborted; the machine after a
reset that an answer of the bus brings, which falls in such a state; or the refusal of one of the two aborts that the
spec puts outside its exception model. -/
def Access.Obeys {α : Type} (R : State → State → Prop) (s : State) : Access α → Prop
  | .done _ t => R s t
  | .abort _ t => R s t
  | .halt (.next t) => (∃ a ∈ s.busTape, a.reset = true) ∧ ∃ u, R s u ∧ t = u.warmReset
  | .halt (.fault _) => False
  | .halt (.refused r) => r = .bufferedWriteAborted ∨ r = .linefetchAborted

theorem Access.Obeys.imp {α : Type} {x : Access α} {R Q : State → State → Prop} {s : State} (h : x.Obeys R s)
    (k : ∀ t, R s t → Q s t) : x.Obeys Q s := by
  match x, h with
  | .done _ t, h => exact k t h
  | .abort _ t, h => exact k t h
  | .halt (.next t), ⟨e, u, hu, ht⟩ => exact ⟨e, u, k u hu, ht⟩
  | .halt (.refused r), h => exact h

/-- What an access obeys from a later state it obeys from an earlier one. -/
theorem Access.Obeys.mono {α : Type} {x : Access α} {R Q : State → State → Prop} {s t : State} (h : x.Obeys R t)
    (sub : t.busTape <:+ s.busTape) (k : ∀ u, R t u → Q s u) : x.Obeys Q s := by
  match x, h with
  | .done _ t, h => exact k t h
  | .abort _ t, h => exact k t h
  | .halt (.next t), ⟨⟨a, m, e⟩, u, hu, ht⟩ => exact ⟨⟨a, sub.subset m, e⟩, u, k u hu, ht⟩
  | .halt (.refused r), h => exact h

theorem Access.Obeys.andThen {α β : Type} {x : Access α} {k : α → State → Access β} {R Q : State → State → Prop}
    {s : State} (h : x.Obeys R s) (imp : ∀ t, R s t → Q s t) (hk : ∀ a t, x = .done a t → R s t → (k a t).Obeys Q s) :
    (x.andThen k).Obeys Q s := by
  match x, h, hk with
  | .done a t, h, hk => exact hk a t rfl h
  | .abort _ t, h, _ => exact imp t h
  | .halt (.next t), ⟨e, u, hu, ht⟩, _ => exact ⟨e, u, imp u hu, ht⟩
  | .halt (.refused r), h, _ => exact h

theorem Access.Obeys.done {α : Type} {x : Access α} {R : State → State → Prop} {s t : State} {a : α}
    (h : x.Obeys R s) (e : x = .done a t) : R s t := by subst e; exact h

theorem Access.Obeys.abort {α : Type} {x : Access α} {R : State → State → Prop} {s t : State} {f : MemFault}
    (h : x.Obeys R s) (e : x = .abort f t) : R s t := by subst e; exact h

/-- A reset falls inside an access only where an answer of the bus brings it; the state is that of a reset. -/
theorem Access.Obeys.reset {α : Type} {x : Access α} {R : State → State → Prop} {s t : State}
    (h : x.Obeys R s) (e : x = .halt (.next t)) :
    (∃ a ∈ s.busTape, a.reset = true) ∧ ∃ u, R s u ∧ t = u.warmReset := by subst e; exact h

/-- A calm access does not end in a next state of its own. -/
theorem Access.Obeys.not_reset {α : Type} {x : Access α} {R : State → State → Prop} {s t : State}
    (h : x.Obeys R s) (c : s.calm) : x ≠ .halt (.next t) := by
  intro e
  obtain ⟨⟨a, m, r⟩, -⟩ := h.reset e
  rw [(c a m).2] at r
  cases r

theorem Access.Obeys.not_fault {α : Type} {x : Access α} {R : State → State → Prop} {s : State} {f : Fault}
    (_ : x.Obeys R s) : x ≠ .halt (.fault f) := by cases f

/-- What a reset forces holds after every reset. -/
theorem warmReset_forced (s : State) : ResetForced s.warmReset := by constructor <;> simp only [State.warmReset]

/-! ### One transfer -/

theorem busAnswer_calm {s : State} (c : s.calm) : s.busAnswer.dma = [] ∧ s.busAnswer.reset = false := by
  unfold State.busAnswer
  cases h : s.busTape with
  | nil => exact ⟨rfl, rfl⟩
  | cons a rest => exact c a (by rw [h]; exact List.mem_cons_self)

/-- A reset falls inside a transfer only where the tape says so. -/
theorem busAnswer_reset {s : State} (h : s.busAnswer.reset = true) : ∃ a ∈ s.busTape, a.reset = true := by
  unfold State.busAnswer at h
  cases hb : s.busTape with
  | nil => rw [hb] at h; cases h
  | cons a rest => rw [hb] at h; exact ⟨a, List.mem_cons_self, h⟩

theorem readTransfer_obeys (s : State) (pa : Word) : (s.readTransfer pa).Obeys ReadKept s := by
  have key : ReadKept s ({ s with busTape := s.busTape.tail }.otherMasters s.busAnswer) := by
    refine ⟨⟨by constructor <;> rfl, List.tail_suffix _, fun o => ⟨wf_applyDma o.memory, o.words, o.runs⟩⟩, fun c => ?_⟩
    simp only [State.settledMem, State.otherMasters, (busAnswer_calm c).1, applyDma]
  unfold State.readTransfer
  dsimp only
  split
  · exact ⟨busAnswer_reset ‹_›, _, key, rfl⟩
  · exact key

/-- What a read transfer brings, and what it leaves in memory. -/
theorem readTransfer_done {s t : State} {pa : Word} {r : BusWord} (h : s.readTransfer pa = .done r t) :
    t = { s with busTape := s.busTape.tail, mem := applyDma s.busAnswer.dma s.mem }
    ∧ r.word = s.busAnswer.data.getD (Memory.readWord t.mem pa)
    ∧ r.aborted = (s.aborts pa || s.busAnswer.abort) := by
  unfold State.readTransfer at h
  dsimp only at h
  split at h
  · cases h
  · cases h; exact ⟨rfl, rfl, rfl⟩

theorem readTransfer_not_abort {s t : State} {pa : Word} {f : MemFault} : s.readTransfer pa ≠ .abort f t := by
  unfold State.readTransfer; dsimp only; split <;> simp

theorem writeTransfer_obeys (s : State) (pa : Word) (w : BusWrite) (locked : Bool) :
    (s.writeTransfer pa w locked).Obeys Kept s := by
  unfold State.writeTransfer
  dsimp only
  have key : ∀ (m : Memory) (d : Nat), (Memory.wf s.mem = true → Memory.wf m = true) →
      Kept s { s with busTape := s.busTape.tail, mem := m, draws := d } := fun m d hm =>
    ⟨by constructor <;> rfl, List.tail_suffix _, fun o => ⟨hm o.memory, o.words, o.runs⟩⟩
  split
  · refine ⟨busAnswer_reset ‹_›, _, ?_, rfl⟩
    cases locked <;>
      (refine key _ _ fun o => ?_; simp only [State.otherMasters, Bool.false_eq_true, if_false, if_true]
       split <;> simp only [wf_applyDma, BusWrite.wf_onMemory, o])
  · cases locked <;>
      (refine key _ _ fun o => ?_; simp only [State.otherMasters, Bool.false_eq_true, if_false, if_true]
       split <;> simp only [wf_applyDma, BusWrite.wf_onMemory, o])

theorem writeTransfer_not_abort {s t : State} {pa : Word} {w : BusWrite} {locked : Bool} {f : MemFault} :
    s.writeTransfer pa w locked ≠ .abort f t := by
  unfold State.writeTransfer; dsimp only; split <;> simp

/-- A write transfer that no reset cuts off: it is aborted where the address or the tape says so, leaves the buffer
alone, and in calm changes memory as written unless it is aborted. -/
theorem writeTransfer_done {s t : State} {pa : Word} {w : BusWrite} {locked aborted : Bool}
    (h : s.writeTransfer pa w locked = .done aborted t) :
    aborted = (s.aborts pa || s.busAnswer.abort) ∧ t.writeBuffer = s.writeBuffer ∧ t.busTape = s.busTape.tail
    ∧ (s.calm → aborted = false → t.mem = w.onMemory s.mem pa)
    ∧ (s.calm → t.mem = w.onMemory s.mem pa ∨ t.mem = s.mem) := by
  unfold State.writeTransfer at h
  dsimp only at h
  split at h
  · cases h
  · rename_i hr
    cases h
    refine ⟨by cases locked <;> rfl, by cases locked <;> rfl, by cases locked <;> rfl, fun c ha => ?_, fun c => ?_⟩
    · cases locked <;> simp_all [State.otherMasters, busAnswer_calm c, applyDma, State.writeLands]
    · cases locked <;> simp only [State.otherMasters, busAnswer_calm c, applyDma, if_true, Bool.false_eq_true, if_false] <;>
        split <;> simp

/-- A write transfer in which no other bus master writes and that no reset cuts off: ABORT is raised where the address or
the tape says so, and only then may memory be as it was. -/
theorem writeTransfer_quiet {s : State} (hd : s.busAnswer.dma = []) (hr : s.busAnswer.reset = false) (pa : Word)
    (w : BusWrite) (locked : Bool) :
    ∃ (lands : Bool) (d : Nat), s.writeTransfer pa w locked = .done (s.aborts pa || s.busAnswer.abort) { s with
        busTape := s.busTape.tail, mem := if lands then w.onMemory s.mem pa else s.mem, draws := d }
      ∧ ((s.aborts pa || s.busAnswer.abort) = false → lands = true ∧ d = s.draws) := by
  refine ⟨State.writeLands { s with busTape := s.busTape.tail } (s.aborts pa || s.busAnswer.abort) false,
    if s.aborts pa || s.busAnswer.abort then s.draws + 1 else s.draws, ?_, fun h => ?_⟩
  · unfold State.writeTransfer
    simp only [hd, hr, State.otherMasters, applyDma, ite_self, Bool.or_false, Bool.false_eq_true, if_false]
    rfl
  · simp [State.writeLands, h]

/-! ### The write buffer -/

theorem wbRuns_tail (e : WbEntry) (rest : List WbEntry) : wbRuns rest ≤ wbRuns (e :: rest) := by
  cases rest with
  | nil => simp [wbRuns]
  | cons d rest =>
    simp only [wbRuns, List.filter_cons]
    split <;> simp

theorem settle_append (l : List WbEntry) (e : WbEntry) (m : Memory) :
    settle (l ++ [e]) m = e.write.onMemory (settle l m) e.addr := by
  induction l generalizing m with
  | nil => rfl
  | cons d rest ih => exact ih _

theorem wf_settle {l : List WbEntry} {m : Memory} (h : Memory.wf m = true) : Memory.wf (settle l m) = true := by
  induction l generalizing m with
  | nil => exact h
  | cons d rest ih => exact ih (d.write.wf_onMemory d.addr h)

theorem drain_obeys (n : Nat) (s : State) : (s.drain n).Obeys ReadKept s := by
  induction n generalizing s with
  | zero => exact ReadKept.refl s
  | succ n ih =>
    unfold State.drain
    split
    · exact ReadKept.refl s
    · rename_i e rest hb
      have hs : ∀ t, Kept { s with writeBuffer := rest } t → Kept s t := fun t k =>
        ⟨AccessFrame.trans (by constructor <;> rfl) k.frame, k.tape, fun o => k.ok ⟨o.memory, by have := o.words; rw [hb] at this; simp at this ⊢; omega,
          (wbRuns_tail e rest).trans (hb ▸ o.runs)⟩⟩
      have hw := writeTransfer_obeys { s with writeBuffer := rest } e.addr e.write false
      cases hx : { s with writeBuffer := rest }.writeTransfer e.addr e.write false with
      | abort f t => exact absurd hx writeTransfer_not_abort
      | halt r =>
        rw [hx] at hw
        match r, hw with
        | .next t, ⟨⟨a, m, hr⟩, u, hu, ht⟩ =>
          exact ⟨⟨a, m, hr⟩, u, ⟨hs u hu, fun c => absurd (c a m).2 (by simp [hr])⟩, ht⟩
        | .refused r, hw => exact hw
      | done aborted t =>
        have hk := hs t (hw.done hx)
        obtain ⟨-, hbuf, -, hm, -⟩ := writeTransfer_done hx
        simp only [Access.andThen]
        split
        · exact Or.inl rfl
        · rename_i ha
          have hst : ReadKept s t := ⟨hk, fun c => by
            have hmem : t.mem = e.write.onMemory s.mem e.addr := hm c (by simpa using ha)
            simp only [State.settledMem, hb, settle, hbuf, hmem]⟩
          exact (ih t).mono hk.tape fun u => hst.trans

theorem drain_not_abort {n : Nat} {s t : State} {f : MemFault} : s.drain n ≠ .abort f t := by
  induction n generalizing s with
  | zero => simp [State.drain]
  | succ n ih =>
    unfold State.drain
    split
    · simp
    · rename_i e rest hb
      cases hx : { s with writeBuffer := rest }.writeTransfer e.addr e.write false with
      | abort f t => exact absurd hx writeTransfer_not_abort
      | halt r => simp [Access.andThen]
      | done aborted u =>
        simp only [Access.andThen]
        split
        · simp
        · exact ih

/-- The oldest writes leave the buffer. -/
theorem drain_done {n : Nat} {s t : State} (h : s.drain n = .done () t) : t.writeBuffer = s.writeBuffer.drop n := by
  induction n generalizing s with
  | zero => cases h; rfl
  | succ n ih =>
    unfold State.drain at h
    split at h
    · cases h; rename_i hb; simp [hb]
    · rename_i e rest hb
      cases hx : { s with writeBuffer := rest }.writeTransfer e.addr e.write false with
      | abort f u => exact absurd hx writeTransfer_not_abort
      | halt r => rw [hx] at h; cases h
      | done aborted u =>
        rw [hx] at h
        simp only [Access.andThen] at h
        split at h
        · cases h
        · rw [ih h, (writeTransfer_done hx).2.1, hb]; rfl

theorem drainAll_obeys (s : State) : s.drainAll.Obeys ReadKept s := drain_obeys _ s

/-- With everything performed memory is what the processor saw before, but for what other bus masters write. -/
theorem drainAll_done {s t : State} (h : s.drainAll = .done () t) :
    t.writeBuffer = [] ∧ (s.calm → t.mem = s.settledMem) := by
  have hb : t.writeBuffer = [] := by rw [drain_done h]; exact List.drop_length
  refine ⟨hb, fun c => ?_⟩
  have := ((drainAll_obeys s).done h).settled c
  rw [← this, State.settledMem, hb]
  rfl

theorem drainSome_obeys (s : State) : s.drainSome.Obeys ReadKept s := by
  unfold State.drainSome
  split
  · exact ReadKept.refl s
  · exact drain_obeys _ s

theorem drainSome_not_abort {s t : State} {f : MemFault} : s.drainSome ≠ .abort f t := by
  unfold State.drainSome
  split
  · simp
  · exact drain_not_abort

/-- With nothing buffered nothing is drained. -/
theorem drainAll_nil {s : State} (h : s.writeBuffer = []) : s.drainAll = .done () s := by
  unfold State.drainAll; rw [h]; rfl

theorem drainSome_nil {s : State} (h : s.writeBuffer = []) : s.drainSome = .done () s := by
  unfold State.drainSome; rw [h]

theorem makeRoom_obeys (pa : Word) (seq : Bool) (n : Nat) (s : State) :
    (State.makeRoom pa seq n s).Obeys ReadKept s := by
  induction n generalizing s with
  | zero => exact ReadKept.refl s
  | succ n ih =>
    unfold State.makeRoom
    split
    · exact ReadKept.refl s
    · exact (drain_obeys 1 s).andThen (fun _ h => h) fun _ t _ h => (ih t).mono h.tape fun u => h.trans

/-- The stall ends with room for the write. -/
theorem makeRoom_done {pa : Word} {seq : Bool} {n : Nat} {s t : State}
    (h : State.makeRoom pa seq n s = .done () t) (hn : s.writeBuffer.length ≤ n) : t.hasRoom pa seq = true := by
  induction n generalizing s with
  | zero =>
    cases h
    have hb : t.writeBuffer = [] := List.eq_nil_of_length_eq_zero (by omega)
    simp [State.hasRoom, State.continuesRun, hb, wbRuns]
  | succ n ih =>
    unfold State.makeRoom at h
    split at h
    · cases h; assumption
    · cases hx : s.drain 1 with
      | abort f u => exact absurd hx drain_not_abort
      | halt r => rw [hx] at h; cases h
      | done a u =>
        rw [hx] at h
        refine ih h ?_
        rw [drain_done hx, List.length_drop]; omega

theorem makeRoom_not_abort {pa : Word} {seq : Bool} {n : Nat} {s t : State} {f : MemFault} :
    State.makeRoom pa seq n s ≠ .abort f t := by
  induction n generalizing s with
  | zero => simp [State.makeRoom]
  | succ n ih =>
    unfold State.makeRoom
    split
    · simp
    · cases hx : s.drain 1 with
      | abort f u => exact absurd hx drain_not_abort
      | halt r => simp [Access.andThen]
      | done a u => exact ih

theorem wbRuns_append (l : List WbEntry) (e : WbEntry) :
    wbRuns (l ++ [e]) ≤ wbRuns l + if e.seq && !l.isEmpty then 0 else 1 := by
  cases l with
  | nil => simp [wbRuns]
  | cons d rest =>
    simp only [List.cons_append, wbRuns, List.filter_append, List.length_append, List.isEmpty_cons, Bool.not_false,
      Bool.and_true]
    cases h : e.seq <;> simp [h]
    omega

/-- A bufferable write keeps the bounds, and its own entry is the newest write the processor sees (R141). -/
theorem bufferWrite_obeys (s : State) (pa : Word) (w : BusWrite) (seq : Bool) :
    (s.bufferWrite pa w seq).Obeys Kept s := by
  unfold State.bufferWrite
  refine (makeRoom_obeys pa seq _ s).andThen (fun _ h => h.toKept) fun _ t hx hk => ?_
  have hr := makeRoom_done hx le_rfl
  simp only [State.hasRoom, Bool.and_eq_true, decide_eq_true_eq, Bool.or_eq_true] at hr
  refine Kept.trans hk.toKept ⟨by constructor <;> rfl, List.suffix_rfl, fun o => ⟨o.memory, ?_, ?_⟩⟩
  · simp only [List.length_append, List.length_singleton]; omega
  · refine (wbRuns_append _ _).trans ?_
    cases hc : t.continuesRun pa seq with
    | false =>
      simp only [hc, Bool.false_eq_true, false_or] at hr
      simp only [Bool.false_and, Bool.false_eq_true, if_false]; omega
    | true =>
      have hne : t.writeBuffer.isEmpty = false := by
        cases hb : t.writeBuffer with
        | nil => simp [State.continuesRun, hb] at hc
        | cons d rest => rfl
      simp only [hne, Bool.not_false, Bool.and_self, if_true]
      exact o.runs

theorem bufferWrite_done {s t : State} {pa : Word} {w : BusWrite} {seq : Bool} (h : s.bufferWrite pa w seq = .done () t) :
    (∃ e, t.writeBuffer.getLast? = some e ∧ e.addr = pa ∧ e.write = w)
    ∧ (s.calm → t.settledMem = w.onMemory s.settledMem pa) := by
  unfold State.bufferWrite at h
  cases hx : State.makeRoom pa seq s.writeBuffer.length s with
  | abort f u => rw [hx] at h; cases h
  | halt r => rw [hx] at h; cases h
  | done a u =>
    rw [hx] at h
    cases h
    refine ⟨⟨_, List.getLast?_concat, rfl, rfl⟩, fun c => ?_⟩
    rw [← ((makeRoom_obeys pa seq _ s).done hx).settled c]
    simp only [State.settledMem, settle_append]

theorem bufferWrite_not_abort {s t : State} {pa : Word} {w : BusWrite} {seq : Bool} {f : MemFault} :
    s.bufferWrite pa w seq ≠ .abort f t := by
  unfold State.bufferWrite
  cases hx : State.makeRoom pa seq s.writeBuffer.length s with
  | abort f u => exact absurd hx makeRoom_not_abort
  | halt r => simp [Access.andThen]
  | done a u => simp [Access.andThen]

/-! ### External reads and writes -/

theorem busRead_obeys (s : State) (pa : Word) (f : MemFault) : (s.busRead pa f).Obeys ReadKept s := by
  unfold State.busRead
  refine (drainAll_obeys s).andThen (fun _ h => h) fun _ t _ h => ?_
  refine Access.Obeys.andThen ((readTransfer_obeys t pa).mono h.tape fun u => h.trans) (fun _ h => h) fun r u _ k => ?_
  split <;> exact k

/-- A calm read that no device answers gives the word the processor sees at that physical address. -/
theorem busRead_done {s t : State} {pa w : Word} {f : MemFault} (h : s.busRead pa f = .done w t) :
    t.writeBuffer = [] ∧ (s.calm → t.mem = s.settledMem)
    ∧ (s.calm → (∀ a ∈ s.busTape, a.data = none) → w = Memory.readWord s.settledMem pa) := by
  unfold State.busRead at h
  cases hd : s.drainAll with
  | abort f u => rw [hd] at h; cases h
  | halt r => rw [hd] at h; cases h
  | done a u =>
    rw [hd] at h
    simp only [Access.andThen] at h
    cases hr : u.readTransfer pa with
    | abort f v => rw [hr] at h; cases h
    | halt r => rw [hr] at h; cases h
    | done r v =>
      rw [hr] at h
      dsimp only at h
      split at h
      · cases h
      · cases h
        obtain ⟨hv, hw, -⟩ := readTransfer_done hr
        obtain ⟨hb, hm⟩ := drainAll_done hd
        have hk := (drainAll_obeys s).done hd
        have hmem : s.calm → t.mem = s.settledMem := fun c => by
          rw [hv, ← hm c, (busAnswer_calm (hk.toKept.calm c)).1]; rfl
        refine ⟨by rw [hv]; exact hb, hmem, fun c nd => ?_⟩
        rw [hw, hmem c]
        have : u.busAnswer.data = none := by
          unfold State.busAnswer
          cases ht : u.busTape with
          | nil => rfl
          | cons a rest => exact nd a (hk.tape.subset (by rw [ht]; exact List.mem_cons_self))
        rw [this]; rfl

theorem busWrite_obeys (s : State) (pa : Word) (w : BusWrite) (locked : Bool) (f : MemFault) :
    (s.busWrite pa w locked f).Obeys Kept s := by
  unfold State.busWrite
  refine (drainAll_obeys s).andThen (fun _ h => h.toKept) fun _ t _ h => ?_
  refine Access.Obeys.andThen ((writeTransfer_obeys t pa w locked).mono h.tape fun u => h.toKept.trans) (fun _ h => h)
    fun r u _ k => ?_
  split <;> exact k

/-- A calm external write that is done is the newest write the processor sees; one that is aborted may be that or
nothing. -/
theorem busWrite_settled {s t : State} {pa : Word} {w : BusWrite} {locked : Bool} {f : MemFault} :
    (s.busWrite pa w locked f = .done () t → s.calm → t.settledMem = w.onMemory s.settledMem pa)
    ∧ (∀ g, s.busWrite pa w locked f = .abort g t → s.calm →
      t.settledMem = w.onMemory s.settledMem pa ∨ t.settledMem = s.settledMem) := by
  unfold State.busWrite
  cases hd : s.drainAll with
  | abort f u => exact absurd hd drain_not_abort
  | halt r => simp [Access.andThen]
  | done a u =>
    obtain ⟨hb, hm⟩ := drainAll_done hd
    have hk := (drainAll_obeys s).done hd
    simp only [Access.andThen]
    cases hw : u.writeTransfer pa w locked with
    | abort f v => exact absurd hw writeTransfer_not_abort
    | halt r => simp
    | done aborted v =>
      obtain ⟨-, hvb, -, hv, hv'⟩ := writeTransfer_done hw
      refine ⟨fun h c => ?_, fun g h c => ?_⟩
      · dsimp only at h
        split at h
        · cases h
        · cases h
          simp only [State.settledMem, hvb, hb, settle, hv (hk.toKept.calm c) (by simp_all), hm c]
      · dsimp only at h
        split at h
        · cases h
          rcases hv' (hk.toKept.calm c) with e | e
          · exact Or.inl (by simp only [State.settledMem, hvb, hb, settle, e, hm c])
          · exact Or.inr (by rw [State.settledMem, hvb, hb, e, hm c]; rfl)
        · cases h

/-! ### Translation, cache, MemRead and MemWrite -/

theorem readKept_of_caches {s t : State} (hf : AccessFrame s t) (ht : t.busTape = s.busTape) (hm : t.mem = s.mem)
    (hw : t.writeBuffer = s.writeBuffer) : ReadKept s t :=
  ⟨⟨hf, ht ▸ List.suffix_rfl, fun o => ⟨hm ▸ o.memory, hw ▸ o.words, hw ▸ o.runs⟩⟩,
    fun _ => by simp only [State.settledMem, hm, hw]⟩

theorem bump_kept (s : State) : ReadKept s s.bump := readKept_of_caches (by constructor <;> rfl) rfl rfl rfl

theorem tableWalk_obeys (s : State) (va : Word) : (s.tableWalk va).Obeys ReadKept s := by
  unfold State.tableWalk
  refine (busRead_obeys s _ _).andThen (fun _ h => h) fun l1 s1 _ h1 => ?_
  split
  · refine Access.Obeys.andThen ((busRead_obeys s1 _ _).mono h1.tape fun t => h1.trans) (fun _ h => h)
      fun l2 s2 _ h2 => ?_
    split <;> exact h2
  · exact h1
  · exact h1

theorem entryFor_obeys (s : State) (va : Word) : (s.entryFor va).Obeys ReadKept s := by
  unfold State.entryFor
  split
  · refine (tableWalk_obeys s va).andThen (fun _ h => h) fun e t _ h => ?_
    exact h.trans (readKept_of_caches (by constructor <;> rfl) rfl rfl rfl)
  · exact ReadKept.refl s
  · exact bump_kept s

theorem translate_obeys (s : State) (va : Word) (write : Bool) : (s.translate va write).Obeys ReadKept s := by
  unfold State.translate
  split
  · refine (entryFor_obeys s va).andThen (fun _ h => h) fun e t _ h => ?_
    split <;> exact h
  · exact ReadKept.refl s

/-- With the MMU off an address is its own physical address (R160). -/
theorem translate_flat {s : State} (h : s.control.m = false) (va : Word) (write : Bool) :
    s.translate va write = .done ⟨va, Attr.flat⟩ s := by
  unfold State.translate; simp [h]

theorem lineTransfers_obeys (s : State) (base : Word) : (s.lineTransfers base).Obeys ReadKept s := by
  unfold State.lineTransfers
  refine (readTransfer_obeys s _).andThen (fun _ h => h) fun _ s0 _ h0 => ?_
  refine ((readTransfer_obeys s0 _).mono h0.tape fun _ => h0.trans).andThen (fun _ h => h) fun _ s1 _ h1 => ?_
  refine ((readTransfer_obeys s1 _).mono h1.tape fun _ => h1.trans).andThen (fun _ h => h) fun _ s2 _ h2 => ?_
  exact ((readTransfer_obeys s2 _).mono h2.tape fun _ => h2.trans).andThen (fun _ h => h) fun _ s3 _ h3 => h3

theorem idcFill_kept (s : State) (l : IdcLine) : ReadKept s (s.idcFill l) :=
  readKept_of_caches (by constructor <;> rfl) rfl rfl rfl

theorem linefetch_obeys (s : State) (va : Word) (t : Translated) : (s.linefetch va t).Obeys ReadKept s := by
  unfold State.linefetch
  refine (drainAll_obeys s).andThen (fun _ h => h) fun _ s1 _ h1 => ?_
  refine ((lineTransfers_obeys s1 _).mono h1.tape fun _ => h1.trans).andThen (fun _ h => h) fun r s2 _ h2 => ?_
  split
  · exact h2
  · split
    · exact Or.inr rfl
    · exact h2.trans (idcFill_kept s2 _)

theorem readBusWord_obeys (s : State) (va : Word) (kind : ReadKind) : (s.readBusWord va kind).Obeys ReadKept s := by
  unfold State.readBusWord
  refine (translate_obeys s va false).andThen (fun _ h => h) fun t s' _ h => ?_
  split
  · unfold State.cachedRead
    split
    · exact h
    · exact (linefetch_obeys s' va t).mono h.tape fun _ => h.trans
  · exact (busRead_obeys s' _ _).mono h.tape fun _ => h.trans

theorem readWord_obeys (s : State) (va : Word) (kind : ReadKind) : (s.readWord va kind).Obeys ReadKept s := by
  unfold State.readWord
  split
  · exact ReadKept.refl s
  · exact readBusWord_obeys s va kind

theorem readByte_obeys (s : State) (va : Word) (kind : ReadKind) : (s.readByte va kind).Obeys ReadKept s := by
  unfold State.readByte
  exact (readBusWord_obeys s va kind).andThen (fun _ h => h) fun w t _ h => h

theorem idcUpdate_kept (s : State) (va : Word) (w : BusWrite) : ReadKept s (s.idcUpdate va w) := by
  unfold State.idcUpdate
  split
  · exact ReadKept.refl s
  · exact readKept_of_caches (by constructor <;> rfl) rfl rfl rfl

theorem cacheWrite_kept (s : State) (va : Word) (a : Attr) (w : BusWrite) : ReadKept s (s.cacheWrite va a w) := by
  unfold State.cacheWrite
  split
  · split
    · exact idcUpdate_kept s va w
    · exact ReadKept.refl s
  · split
    · exact ReadKept.refl s
    · split
      · exact (idcUpdate_kept s va w).trans (bump_kept _)
      · exact bump_kept s

theorem memWrite_obeys (s : State) (va : Word) (w : BusWrite) (swap seq : Bool) :
    (s.memWrite va w swap seq).Obeys Kept s := by
  unfold State.memWrite
  split
  · exact Kept.refl s
  · refine (translate_obeys s va true).andThen (fun _ h => h.toKept) fun t s' _ h => ?_
    have hc := (h.trans (cacheWrite_kept s' va t.attr w)).toKept
    dsimp only
    split
    · exact (bufferWrite_obeys _ _ _ _).mono hc.tape fun _ => hc.trans
    · exact (busWrite_obeys _ _ _ _ _).mono hc.tape fun _ => hc.trans

/-- A calm write that is done is the newest write the processor sees, at the physical address its translation gives; one
that is aborted after its translation may be that or nothing. -/
theorem memWrite_settled {s t u : State} {va : Word} {w : BusWrite} {swap seq : Bool} {tr : Translated} (c : s.calm)
    (ht : s.translate va true = .done tr u) :
    (s.memWrite va w swap seq = .done () t → t.settledMem = w.onMemory s.settledMem tr.pa)
    ∧ (∀ g, s.memWrite va w swap seq = .abort g t →
      t.settledMem = w.onMemory s.settledMem tr.pa ∨ t.settledMem = s.settledMem) := by
  have hk := (translate_obeys s va true).done ht
  have hkc := hk.trans (cacheWrite_kept u va tr.attr w)
  have hcc := hkc.toKept.calm c
  unfold State.memWrite
  by_cases hm : (w.isWord && s.misaligned va) = true
  · rw [if_pos hm]
    exact ⟨fun h => (by cases h), fun g h => (by cases h; exact Or.inr rfl)⟩
  · rw [if_neg hm, ht]
    simp only [Access.andThen]
    by_cases hb : ((u.cacheWrite va tr.attr w).control.w && tr.attr.b && !swap) = true
    · rw [if_pos hb]
      exact ⟨fun h => by rw [(bufferWrite_done h).2 hcc, hkc.settled c],
        fun g h => absurd h bufferWrite_not_abort⟩
    · rw [if_neg hb]
      refine ⟨fun h => by rw [busWrite_settled.1 h hcc, hkc.settled c], fun g h => ?_⟩
      rw [← hkc.settled c]
      exact busWrite_settled.2 g h hcc

/-- A write that its translation stops writes nothing. -/
theorem memWrite_stopped {s t u : State} {va : Word} {w : BusWrite} {swap seq : Bool} {f g : MemFault}
    (ht : s.translate va true = .abort f u) (h : s.memWrite va w swap seq = .abort g t) : ReadKept s t := by
  unfold State.memWrite at h
  split at h
  · cases h; exact ReadKept.refl s
  · rw [ht] at h
    cases h
    exact (translate_obeys s va true).abort ht

/-! ### The flat memory: what an access does right after reset -/

theorem calm_of_idle {s : State} (h : s.busTape = []) : s.calm := by intro a m; rw [h] at m; cases m

theorem Flat.calm {s : State} (h : Flat s) : s.calm := calm_of_idle h.busIdle

theorem Flat.misaligned {s : State} (h : Flat s) (va : Word) : s.misaligned va = false := by
  simp [State.misaligned, h.alignOff]

theorem Flat.aborts {s : State} (h : Flat s) (pa : Word) : s.aborts pa = false := by
  simp [State.aborts, h.noAborts]

theorem busAnswer_idle {s : State} (h : s.busTape = []) : s.busAnswer = BusAnswer.idle := by
  unfold State.busAnswer; rw [h]

/-- With no answer of the bus left a read transfer reads memory and changes nothing. -/
theorem readTransfer_idle {s : State} (h : s.busTape = []) (pa : Word) :
    s.readTransfer pa = .done ⟨Memory.readWord s.mem pa, s.aborts pa⟩ s := by
  have hs : { s with busTape := s.busTape.tail } = s := by cases s; cases h; rfl
  unfold State.readTransfer
  rw [busAnswer_idle h, hs]
  simp [BusAnswer.idle, State.otherMasters, applyDma]

/-- With no answer of the bus left a write transfer to an address that does not abort writes memory and nothing else. -/
theorem writeTransfer_idle {s : State} (h : s.busTape = []) {pa : Word} (hp : s.aborts pa = false) (w : BusWrite)
    (locked : Bool) : s.writeTransfer pa w locked = .done false { s with mem := w.onMemory s.mem pa } := by
  have hs : { s with busTape := s.busTape.tail } = s := by cases s; cases h; rfl
  unfold State.writeTransfer
  rw [busAnswer_idle h, hs]
  cases locked <;> simp [BusAnswer.idle, State.otherMasters, applyDma, State.writeLands, hp]

theorem Flat.busRead {s : State} (h : Flat s) (pa : Word) (f : MemFault) :
    s.busRead pa f = .done (Memory.readWord s.mem pa) s := by
  unfold State.busRead
  simp [drainAll_nil h.nothingBuffered, Access.andThen, readTransfer_idle h.busIdle, h.aborts]

theorem Flat.readBusWord {s : State} (h : Flat s) (va : Word) (kind : ReadKind) :
    s.readBusWord va kind = .done (Memory.readWord s.mem va) s := by
  unfold State.readBusWord
  rw [translate_flat h.mmuOff]
  simp [Access.andThen, h.cacheOff, h.busRead]

theorem Flat.readWord {s : State} (h : Flat s) (va : Word) (kind : ReadKind) :
    s.readWord va kind = .done (Memory.readWord s.mem va) s := by
  unfold State.readWord
  simp [h.misaligned, h.readBusWord]

theorem Flat.readByte {s : State} (h : Flat s) (va : Word) (kind : ReadKind) :
    s.readByte va kind = .done (getLane (Memory.readWord s.mem va) (laneOf s.control.b (laneBits va))) s := by
  unfold State.readByte
  simp [h.readBusWord, Access.andThen]

/-- A flat write is a write to memory; a line still held may follow it, and only then is a free value used. -/
theorem Flat.memWrite_any {s : State} (h : Flat s) (va : Word) (w : BusWrite) (swap seq : Bool) :
    ∃ c d, s.memWrite va w swap seq = .done () { s with mem := w.onMemory s.mem va, idc := c, draws := d }
      ∧ (s.idcFind va = none → c = s.idc ∧ d = s.draws) := by
  have key : ∀ c d, (if ({ s with idc := c, draws := d } : State).control.w && Attr.flat.b && !swap
        then ({ s with idc := c, draws := d } : State).bufferWrite va w seq
        else ({ s with idc := c, draws := d } : State).busWrite va w swap Attr.flat.externalFault)
      = .done () { s with mem := w.onMemory s.mem va, idc := c, draws := d } := fun c d => by
    have hd : State.drainAll { s with idc := c, draws := d } = .done () { s with idc := c, draws := d } :=
      drainAll_nil h.nothingBuffered
    have hw : State.writeTransfer { s with idc := c, draws := d } va w swap
        = .done false { s with mem := w.onMemory s.mem va, idc := c, draws := d } :=
      writeTransfer_idle (s := { s with idc := c, draws := d }) h.busIdle (h.aborts va) w swap
    simp only [Attr.flat, Bool.and_false, Bool.false_and, Bool.false_eq_true, if_false, State.busWrite, hd, hw,
      Access.andThen]
  have hu : ∃ c d, s.cacheWrite va Attr.flat w = { s with idc := c, draws := d }
      ∧ (s.idcFind va = none → c = s.idc ∧ d = s.draws) := by
    simp only [State.cacheWrite, Attr.flat]
    split
    · rename_i hi
      exact ⟨s.idc, s.draws, rfl, fun _ => ⟨rfl, rfl⟩⟩
    · rename_i l hi
      simp only [State.idcUpdate, hi, State.bump]
      split
      · exact ⟨_, _, rfl, fun k => by cases k⟩
      · exact ⟨s.idc, _, rfl, fun k => by cases k⟩
  obtain ⟨c, d, e, hf⟩ := hu
  refine ⟨c, d, ?_, hf⟩
  unfold State.memWrite
  rw [translate_flat h.mmuOff]
  simp only [h.misaligned, Bool.and_false, Bool.false_eq_true, if_false, Access.andThen]
  rw [e]
  exact key c d

/-- With nothing cached at the address a flat write is a write to memory and nothing else. -/
theorem Flat.memWrite {s : State} (h : Flat s) (va : Word) (hi : s.idcFind va = none) (w : BusWrite)
    (swap seq : Bool) : s.memWrite va w swap seq = .done () { s with mem := w.onMemory s.mem va } := by
  obtain ⟨c, d, e, hf⟩ := h.memWrite_any va w swap seq
  obtain ⟨rfl, rfl⟩ := hf hi
  exact e

end Sys2Proof.Machine
end

