-- ==== Sys2Proof/Tests/Slice0.lean ====
section
/-! SUPPORT. Tests: the well-formedness checks, one word decoded for each row of the opcode table, one step for each
instruction with the numbers of spec/95_test_vectors.md and the rules' examples, and a witness for every statement
that has hypotheses. -/

-- One theorem after another: elaborated in parallel, each one that waits for the kernel holds a thread.
set_option Elab.async false

namespace Sys2Proof.Tests

open Sys2Proof Sys2Proof.Machine

/-! ### Well-formedness: each check refuses an ill-formed term -/

/-- R250: an MRC of ID, FSR or FAR is no general MRC. -/
theorem test_wf_mrc :
    (Instr.mrc ⟨.al, 0#3, 0#4, 1#4, 15#4, 0#3, 0#4⟩).wellFormed = false
    ∧ (Instr.mrc ⟨.al, 0#3, 5#4, 1#4, 15#4, 0#3, 0#4⟩).wellFormed = false
    ∧ (Instr.mrc ⟨.al, 0#3, 6#4, 1#4, 15#4, 0#3, 0#4⟩).wellFormed = false
    ∧ (Instr.mrc ⟨.al, 0#3, 6#4, 1#4, 14#4, 0#3, 0#4⟩).wellFormed = true := by decide

/-- R250: an MCR to register 1, 2, 3, 5, 6 or 7 of coprocessor 15 is no general MCR. -/
theorem test_wf_mcr :
    (Instr.mcr ⟨.al, 0#3, 1#4, 1#4, 15#4, 0#3, 0#4⟩).wellFormed = false
    ∧ (Instr.mcr ⟨.al, 0#3, 2#4, 1#4, 15#4, 0#3, 0#4⟩).wellFormed = false
    ∧ (Instr.mcr ⟨.al, 0#3, 3#4, 1#4, 15#4, 0#3, 0#4⟩).wellFormed = false
    ∧ (Instr.mcr ⟨.al, 0#3, 5#4, 1#4, 15#4, 0#3, 0#4⟩).wellFormed = false
    ∧ (Instr.mcr ⟨.al, 0#3, 6#4, 1#4, 15#4, 0#3, 0#4⟩).wellFormed = false
    ∧ (Instr.mcr ⟨.al, 0#3, 7#4, 1#4, 15#4, 0#3, 0#4⟩).wellFormed = false
    ∧ (Instr.mcr ⟨.al, 0#3, 0#4, 1#4, 15#4, 0#3, 0#4⟩).wellFormed = true := by decide

/-! ### Decoding -/

/-- One word for each row, its fields as R223, R225, R300 place them. -/
theorem test_decode_data_processing_immediate :
    decodeWord 0b0000_00_1_0000_1_0001_0100_1010_00101010#32 = .ok (.andImm ⟨.eq, true, 1#4, 4#4, 10#4, 42#8⟩)
    ∧ decodeWord 0b0011_00_1_0001_0_0100_1101_1111_10011001#32 = .ok (.eorImm ⟨.cc, false, 4#4, 13#4, 15#4, 153#8⟩)
    ∧ decodeWord 0b0110_00_1_0010_1_0111_0110_0100_00001000#32 = .ok (.subImm ⟨.vs, true, 7#4, 6#4, 4#4, 8#8⟩)
    ∧ decodeWord 0b1001_00_1_0011_0_1010_1111_1001_01110111#32 = .ok (.rsbImm ⟨.ls, false, 10#4, 15#4, 9#4, 119#8⟩)
    ∧ decodeWord 0b1100_00_1_0100_1_1101_1000_1110_11100110#32 = .ok (.addImm ⟨.gt, true, 13#4, 8#4, 14#4, 230#8⟩)
    ∧ decodeWord 0b0000_00_1_0101_0_0000_0001_0011_01010101#32 = .ok (.adcImm ⟨.eq, false, 0#4, 1#4, 3#4, 85#8⟩)
    ∧ decodeWord 0b0011_00_1_0110_1_0011_1010_1000_11000100#32 = .ok (.sbcImm ⟨.cc, true, 3#4, 10#4, 8#4, 196#8⟩)
    ∧ decodeWord 0b0110_00_1_0111_0_0110_0011_1101_00110011#32 = .ok (.rscImm ⟨.vs, false, 6#4, 3#4, 13#4, 51#8⟩)
    ∧ decodeWord 0b1001_00_1_1000_1_1001_1100_0010_10100010#32 = .ok (.tstImm ⟨.ls, 9#4, 12#4, 2#4, 162#8⟩)
    ∧ decodeWord 0b1100_00_1_1001_1_1100_0101_0111_00010001#32 = .ok (.teqImm ⟨.gt, 12#4, 5#4, 7#4, 17#8⟩)
    ∧ decodeWord 0b0000_00_1_1010_1_1111_1110_1100_10000000#32 = .ok (.cmpImm ⟨.eq, 15#4, 14#4, 12#4, 128#8⟩)
    ∧ decodeWord 0b0011_00_1_1011_1_0010_0111_0001_11101111#32 = .ok (.cmnImm ⟨.cc, 2#4, 7#4, 1#4, 239#8⟩)
    ∧ decodeWord 0b0110_00_1_1100_1_0101_0000_0110_01011110#32 = .ok (.orrImm ⟨.vs, true, 5#4, 0#4, 6#4, 94#8⟩)
    ∧ decodeWord 0b1001_00_1_1101_0_1000_1001_1011_11001101#32 = .ok (.movImm ⟨.ls, false, 8#4, 9#4, 11#4, 205#8⟩)
    ∧ decodeWord 0b1100_00_1_1110_1_1011_0010_0000_00111100#32 = .ok (.bicImm ⟨.gt, true, 11#4, 2#4, 0#4, 60#8⟩)
    ∧ decodeWord 0b0000_00_1_1111_0_1110_1011_0101_10101011#32 = .ok (.mvnImm ⟨.eq, false, 14#4, 11#4, 5#4, 171#8⟩) := by decide

/-- One word for each row, its fields as R223, R224, R300 place them. -/
theorem test_decode_data_processing_shift :
    decodeWord 0b0001_00_0_0000_0_0010_0111_11001_00_0_1100#32 = .ok (.andShift ⟨.ne, false, 2#4, 7#4, 25#5, .lsl, 12#4⟩)
    ∧ decodeWord 0b0100_00_0_0001_1_0101_0000_11010_01_0_1011#32 = .ok (.eorShift ⟨.mi, true, 5#4, 0#4, 26#5, .lsr, 11#4⟩)
    ∧ decodeWord 0b0111_00_0_0010_0_1000_1001_11011_10_0_1010#32 = .ok (.subShift ⟨.vc, false, 8#4, 9#4, 27#5, .asr, 10#4⟩)
    ∧ decodeWord 0b1010_00_0_0011_1_1011_0010_11100_11_0_1001#32 = .ok (.rsbShift ⟨.ge, true, 11#4, 2#4, 28#5, .ror, 9#4⟩)
    ∧ decodeWord 0b1101_00_0_0100_0_1110_1011_11101_00_0_1000#32 = .ok (.addShift ⟨.le, false, 14#4, 11#4, 29#5, .lsl, 8#4⟩)
    ∧ decodeWord 0b0001_00_0_0101_1_0001_0100_11110_01_0_0111#32 = .ok (.adcShift ⟨.ne, true, 1#4, 4#4, 30#5, .lsr, 7#4⟩)
    ∧ decodeWord 0b0100_00_0_0110_0_0100_1101_11111_10_0_0110#32 = .ok (.sbcShift ⟨.mi, false, 4#4, 13#4, 31#5, .asr, 6#4⟩)
    ∧ decodeWord 0b0111_00_0_0111_1_0111_0110_00000_11_0_0101#32 = .ok (.rscShift ⟨.vc, true, 7#4, 6#4, 0#5, .ror, 5#4⟩)
    ∧ decodeWord 0b1010_00_0_1000_1_1010_1111_00001_00_0_0100#32 = .ok (.tstShift ⟨.ge, 10#4, 15#4, 1#5, .lsl, 4#4⟩)
    ∧ decodeWord 0b1101_00_0_1001_1_1101_1000_00010_01_0_0011#32 = .ok (.teqShift ⟨.le, 13#4, 8#4, 2#5, .lsr, 3#4⟩)
    ∧ decodeWord 0b0001_00_0_1010_1_0000_0001_00011_10_0_0010#32 = .ok (.cmpShift ⟨.ne, 0#4, 1#4, 3#5, .asr, 2#4⟩)
    ∧ decodeWord 0b0100_00_0_1011_1_0011_1010_00100_11_0_0001#32 = .ok (.cmnShift ⟨.mi, 3#4, 10#4, 4#5, .ror, 1#4⟩)
    ∧ decodeWord 0b0111_00_0_1100_0_0110_0011_00101_00_0_0000#32 = .ok (.orrShift ⟨.vc, false, 6#4, 3#4, 5#5, .lsl, 0#4⟩)
    ∧ decodeWord 0b1010_00_0_1101_1_1001_1100_00110_01_0_1111#32 = .ok (.movShift ⟨.ge, true, 9#4, 12#4, 6#5, .lsr, 15#4⟩)
    ∧ decodeWord 0b1101_00_0_1110_0_1100_0101_00111_10_0_1110#32 = .ok (.bicShift ⟨.le, false, 12#4, 5#4, 7#5, .asr, 14#4⟩)
    ∧ decodeWord 0b0001_00_0_1111_1_1111_1110_01000_11_0_1101#32 = .ok (.mvnShift ⟨.ne, true, 15#4, 14#4, 8#5, .ror, 13#4⟩) := by decide

/-- One word for each row, its fields as R223, R224, R300 place them. -/
theorem test_decode_data_processing_register_shift :
    decodeWord 0b0010_00_0_0000_1_0011_1010_1000_0_10_1_0001#32 = .ok (.andRegShift ⟨.cs, true, 3#4, 10#4, 8#4, .asr, 1#4⟩)
    ∧ decodeWord 0b0101_00_0_0001_0_0110_0011_1101_0_11_1_0000#32 = .ok (.eorRegShift ⟨.pl, false, 6#4, 3#4, 13#4, .ror, 0#4⟩)
    ∧ decodeWord 0b1000_00_0_0010_1_1001_1100_0010_0_00_1_1111#32 = .ok (.subRegShift ⟨.hi, true, 9#4, 12#4, 2#4, .lsl, 15#4⟩)
    ∧ decodeWord 0b1011_00_0_0011_0_1100_0101_0111_0_01_1_1110#32 = .ok (.rsbRegShift ⟨.lt, false, 12#4, 5#4, 7#4, .lsr, 14#4⟩)
    ∧ decodeWord 0b1110_00_0_0100_1_1111_1110_1100_0_10_1_1101#32 = .ok (.addRegShift ⟨.al, true, 15#4, 14#4, 12#4, .asr, 13#4⟩)
    ∧ decodeWord 0b0010_00_0_0101_0_0010_0111_0001_0_11_1_1100#32 = .ok (.adcRegShift ⟨.cs, false, 2#4, 7#4, 1#4, .ror, 12#4⟩)
    ∧ decodeWord 0b0101_00_0_0110_1_0101_0000_0110_0_00_1_1011#32 = .ok (.sbcRegShift ⟨.pl, true, 5#4, 0#4, 6#4, .lsl, 11#4⟩)
    ∧ decodeWord 0b1000_00_0_0111_0_1000_1001_1011_0_01_1_1010#32 = .ok (.rscRegShift ⟨.hi, false, 8#4, 9#4, 11#4, .lsr, 10#4⟩)
    ∧ decodeWord 0b1011_00_0_1000_1_1011_0010_0000_0_10_1_1001#32 = .ok (.tstRegShift ⟨.lt, 11#4, 2#4, 0#4, .asr, 9#4⟩)
    ∧ decodeWord 0b1110_00_0_1001_1_1110_1011_0101_0_11_1_1000#32 = .ok (.teqRegShift ⟨.al, 14#4, 11#4, 5#4, .ror, 8#4⟩)
    ∧ decodeWord 0b0010_00_0_1010_1_0001_0100_1010_0_00_1_0111#32 = .ok (.cmpRegShift ⟨.cs, 1#4, 4#4, 10#4, .lsl, 7#4⟩)
    ∧ decodeWord 0b0101_00_0_1011_1_0100_1101_1111_0_01_1_0110#32 = .ok (.cmnRegShift ⟨.pl, 4#4, 13#4, 15#4, .lsr, 6#4⟩)
    ∧ decodeWord 0b1000_00_0_1100_1_0111_0110_0100_0_10_1_0101#32 = .ok (.orrRegShift ⟨.hi, true, 7#4, 6#4, 4#4, .asr, 5#4⟩)
    ∧ decodeWord 0b1011_00_0_1101_0_1010_1111_1001_0_11_1_0100#32 = .ok (.movRegShift ⟨.lt, false, 10#4, 15#4, 9#4, .ror, 4#4⟩)
    ∧ decodeWord 0b1110_00_0_1110_1_1101_1000_1110_0_00_1_0011#32 = .ok (.bicRegShift ⟨.al, true, 13#4, 8#4, 14#4, .lsl, 3#4⟩)
    ∧ decodeWord 0b0010_00_0_1111_0_0000_0001_0011_0_01_1_0010#32 = .ok (.mvnRegShift ⟨.cs, false, 0#4, 1#4, 3#4, .lsr, 2#4⟩) := by decide

/-- One word for each row, its fields as R226 places them. -/
theorem test_decode_psr_transfer :
    decodeWord 0b0011_00010_1_001111_1001_000000000000#32 = .ok (.mrs ⟨.cc, true, 9#4⟩)
    ∧ decodeWord 0b0100_00010_0_1010011111_00000000_0110#32 = .ok (.msr ⟨.mi, false, 6#4⟩)
    ∧ decodeWord 0b0101_00010_1_1010001111_00000000_0101#32 = .ok (.msrFlgReg ⟨.pl, true, 5#4⟩)
    ∧ decodeWord 0b0110_00110_0_1010001111_1011_10100101#32 = .ok (.msrFlgImm ⟨.vs, false, 11#4, 165#8⟩) := by decide

/-- One word for each row, its fields as R227, R228 place them. -/
theorem test_decode_multiply_swap :
    decodeWord 0b0111_000000_0_1_0001_0010_0011_1001_0100#32 = .ok (.mul ⟨.vc, true, 1#4, 2#4, 3#4, 4#4⟩)
    ∧ decodeWord 0b1000_000000_1_0_0001_0010_0011_1001_0100#32 = .ok (.mla ⟨.hi, false, 1#4, 2#4, 3#4, 4#4⟩)
    ∧ decodeWord 0b1001_00010_0_00_0111_1000_0000_1001_1001#32 = .ok (.swp ⟨.ls, 7#4, 8#4, 9#4⟩)
    ∧ decodeWord 0b1010_00010_1_00_0111_1000_0000_1001_1001#32 = .ok (.swpb ⟨.ge, 7#4, 8#4, 9#4⟩) := by decide

/-- One word for each row, its fields as R229 places them. -/
theorem test_decode_single_transfer :
    decodeWord 0b1011_01_0_1_0_0_1_1_0010_1010_001100010010#32 = .ok (.ldrImm ⟨.lt, true, false, true, 2#4, 10#4, 786#12⟩)
    ∧ decodeWord 0b1100_01_0_0_1_1_0_1_0011_1011_011000011011#32 = .ok (.ldrbImm ⟨.gt, false, true, false, 3#4, 11#4, 1563#12⟩)
    ∧ decodeWord 0b1101_01_0_1_1_0_0_0_0100_1100_100100100100#32 = .ok (.strImm ⟨.le, true, true, false, 4#4, 12#4, 2340#12⟩)
    ∧ decodeWord 0b1110_01_0_0_0_1_1_0_0101_1101_110000101101#32 = .ok (.strbImm ⟨.al, false, false, true, 5#4, 13#4, 3117#12⟩)
    ∧ decodeWord 0b0000_01_1_1_0_0_0_1_0110_1000_01111_01_0_0101#32 = .ok (.ldrReg ⟨.eq, true, false, false, 6#4, 8#4, 15#5, .lsr, 5#4⟩)
    ∧ decodeWord 0b0001_01_1_0_1_1_0_1_0111_1001_10010_10_0_0110#32 = .ok (.ldrbReg ⟨.ne, false, true, false, 7#4, 9#4, 18#5, .asr, 6#4⟩)
    ∧ decodeWord 0b0010_01_1_1_1_0_1_0_1000_1010_10101_11_0_0111#32 = .ok (.strReg ⟨.cs, true, true, true, 8#4, 10#4, 21#5, .ror, 7#4⟩)
    ∧ decodeWord 0b0011_01_1_0_0_1_0_0_1001_1011_11000_00_0_1000#32 = .ok (.strbReg ⟨.cc, false, false, false, 9#4, 11#4, 24#5, .lsl, 8#4⟩) := by decide

/-- One word for each row, its fields as R230 to R232, R236 place them. -/
theorem test_decode_block_branch_trap :
    decodeWord 0b0100_011_10101011110011011110_1_0101#32 = .ok (.undefined ⟨.mi, 703710#20, 5#4⟩)
    ∧ decodeWord 0b0101_100_1_0_0_1_1_1101_1000010000100010#32 = .ok (.ldm ⟨.pl, true, false, false, true, 13#4, 33826#16⟩)
    ∧ decodeWord 0b0110_100_0_1_1_0_0_1101_1000010000100001#32 = .ok (.stm ⟨.vs, false, true, true, false, 13#4, 33825#16⟩)
    ∧ decodeWord 0b0111_101_0_100000010010001101000101#32 = .ok (.b ⟨.vc, 8463173#24⟩)
    ∧ decodeWord 0b1000_101_1_100000010010001101000110#32 = .ok (.bl ⟨.hi, 8463174#24⟩)
    ∧ decodeWord 0b1001_1111_000100100011010001010110#32 = .ok (.swi ⟨.ls, 1193046#24⟩) := by decide

/-- One word for each row, its fields as R233 to R235 place them. -/
theorem test_decode_coprocessor :
    decodeWord 0b1010_110_1_1_0_1_1_0011_1100_0111_10000001#32 = .ok (.ldc ⟨.ge, true, true, false, true, 3#4, 12#4, 7#4, 129#8⟩)
    ∧ decodeWord 0b1011_110_0_1_1_0_0_0011_1100_0111_10000001#32 = .ok (.stc ⟨.lt, false, true, true, false, 3#4, 12#4, 7#4, 129#8⟩)
    ∧ decodeWord 0b1100_1110_1001_0001_0010_0011_101_0_0100#32 = .ok (.cdp ⟨.gt, 9#4, 1#4, 2#4, 3#4, 5#3, 4#4⟩)
    ∧ decodeWord 0b1101_1110_110_1_0001_0010_0011_101_1_0100#32 = .ok (.mrc ⟨.le, 6#3, 1#4, 2#4, 3#4, 5#3, 4#4⟩)
    ∧ decodeWord 0b1110_1110_110_0_0001_0010_0011_101_1_0100#32 = .ok (.mcr ⟨.al, 6#3, 1#4, 2#4, 3#4, 5#3, 4#4⟩) := by decide

/-- One word for each row, its fields as R235, R481 place them. -/
theorem test_decode_system_coprocessor :
    decodeWord 0b0000_1110_101_1_0000_1010_1111_011_1_0110#32 = .ok (.mrcId ⟨.eq, 5#3, 10#4, 3#3, 6#4⟩)
    ∧ decodeWord 0b0001_1110_101_1_0101_1010_1111_011_1_0110#32 = .ok (.mrcFsr ⟨.ne, 5#3, 10#4, 3#3, 6#4⟩)
    ∧ decodeWord 0b0010_1110_101_1_0110_1010_1111_011_1_0110#32 = .ok (.mrcFar ⟨.cs, 5#3, 10#4, 3#3, 6#4⟩)
    ∧ decodeWord 0b0011_1110_101_0_0001_1010_1111_011_1_0110#32 = .ok (.mcrControl ⟨.cc, 5#3, 10#4, 3#3, 6#4⟩)
    ∧ decodeWord 0b0100_1110_101_0_0010_1010_1111_011_1_0110#32 = .ok (.mcrTtb ⟨.mi, 5#3, 10#4, 3#3, 6#4⟩)
    ∧ decodeWord 0b0101_1110_101_0_0011_1010_1111_011_1_0110#32 = .ok (.mcrDacr ⟨.pl, 5#3, 10#4, 3#3, 6#4⟩)
    ∧ decodeWord 0b0110_1110_101_0_0101_1010_1111_011_1_0110#32 = .ok (.mcrTlbFlush ⟨.vs, 5#3, 10#4, 3#3, 6#4⟩)
    ∧ decodeWord 0b0111_1110_101_0_0110_1010_1111_011_1_0110#32 = .ok (.mcrTlbPurge ⟨.vc, 5#3, 10#4, 3#3, 6#4⟩)
    ∧ decodeWord 0b1000_1110_101_0_0111_1010_1111_011_1_0110#32 = .ok (.mcrIdcFlush ⟨.hi, 5#3, 10#4, 3#3, 6#4⟩) := by decide

/-! ### Steps -/

/-- A state from its control register, its CPSR, its registers by place and its memory by words; the pc is 0x8000. -/
def state (control cpsr : Word) (regs : List (Fin 30 × Word)) (mem : List (Word × Word)) : State :=
  { State.reset with
    pc := 0x8000#32
    control := controlOfWord control
    cpsr := (restorePsr (psrOfWord cpsr)).getD State.reset.cpsr
    regs := regs.foldl (fun v p => v.set p.1 p.2) State.reset.regs
    mem := applyDma mem [] }

/-- The CPSR as a word whose reserved bits are 0. -/
def cpsrWord (s : State) : Word := psrWord (saveCpsr s.cpsr) 0

/-- An SPSR as a word whose reserved bits are 0. -/
def spsrWord (p : Psr) : Word := psrWord p 0

/-- The bus word at an address, with the buffered writes performed. -/
def memAt (s : State) (a : Word) : Word := Memory.readWord s.settledMem a

/-- The step that runs `w` answers a next state with the property `p`. -/
def completes (w : Nat) (s : State) (p : State → Bool) : Bool :=
  match step (s.withFetchWord 32 w) with
  | .next t => p t
  | .fault _ => false
  | .refused _ => false

/-- The step that runs `w` is refused with `r`. -/
def refuses (w : Nat) (s : State) (r : Refusal) : Bool :=
  match step (s.withFetchWord 32 w) with
  | .next _ => false
  | .fault _ => false
  | .refused x => x == r

/-- spec/95_test_vectors.md section 2.2. -/
theorem test_and :
    (completes 0xE0110082 (state 0x30#32 0x100000D3#32 [(1, 0xFFFFFFFF#32), (2, 0x80000000#32)] [])
      (fun t => t.regs[0] == 0x0#32 && field (cpsrWord t) 28 4 == 7#4)) = true := by decide +kernel

/-- spec/95_test_vectors.md section 2.2. -/
theorem test_eor :
    (completes 0xE0310001 (state 0x30#32 0x300000D3#32 [(1, 0x5#32)] [])
      (fun t => t.regs[0] == 0x0#32 && field (cpsrWord t) 28 4 == 7#4)
    && completes 0xE0310002 (state 0x30#32 0xD3#32 [(1, 0xFF00FF00#32), (2, 0xF0FF0F0#32)] [])
      (fun t => t.regs[0] == 0xF00F0FF0#32 && field (cpsrWord t) 28 4 == 8#4)) = true := by decide +kernel

/-- spec/95_test_vectors.md section 2.2. -/
theorem test_sub :
    (completes 0xE0510002 (state 0x30#32 0xD3#32 [(1, 0x80000000#32), (2, 0x1#32)] [])
      (fun t => t.regs[0] == 0x7FFFFFFF#32 && field (cpsrWord t) 28 4 == 3#4)
    && completes 0xE0510002 (state 0x30#32 0xD3#32 [(1, 0x0#32), (2, 0x1#32)] [])
      (fun t => t.regs[0] == 0xFFFFFFFF#32 && field (cpsrWord t) 28 4 == 8#4)) = true := by decide +kernel

/-- spec/95_test_vectors.md section 2.2. -/
theorem test_rsb :
    (completes 0xE2710000 (state 0x30#32 0xD3#32 [(1, 0x80000000#32)] [])
      (fun t => t.regs[0] == 0x80000000#32 && field (cpsrWord t) 28 4 == 9#4)
    && completes 0xE2710000 (state 0x30#32 0xD3#32 [(1, 0x0#32)] [])
      (fun t => t.regs[0] == 0x0#32 && field (cpsrWord t) 28 4 == 6#4)) = true := by decide +kernel

/-- spec/95_test_vectors.md section 2.2. -/
theorem test_add :
    (completes 0xE0910002 (state 0x30#32 0xD3#32 [(1, 0x7FFFFFFF#32), (2, 0x1#32)] [])
      (fun t => t.regs[0] == 0x80000000#32 && field (cpsrWord t) 28 4 == 9#4)
    && completes 0xE0910002 (state 0x30#32 0xD3#32 [(1, 0x80000000#32), (2, 0x80000000#32)] [])
      (fun t => t.regs[0] == 0x0#32 && field (cpsrWord t) 28 4 == 7#4)) = true := by decide +kernel

/-- spec/95_test_vectors.md section 2.2. -/
theorem test_adc :
    (completes 0xE0B10002 (state 0x30#32 0x200000D3#32 [(1, 0xFFFFFFFF#32), (2, 0x0#32)] [])
      (fun t => t.regs[0] == 0x0#32 && field (cpsrWord t) 28 4 == 6#4)
    && completes 0xE0B10002 (state 0x30#32 0x200000D3#32 [(1, 0x7FFFFFFF#32), (2, 0x0#32)] [])
      (fun t => t.regs[0] == 0x80000000#32 && field (cpsrWord t) 28 4 == 9#4)) = true := by decide +kernel

/-- spec/95_test_vectors.md section 2.2. -/
theorem test_sbc :
    (completes 0xE0D10002 (state 0x30#32 0x200000D3#32 [(1, 0x5#32), (2, 0x5#32)] [])
      (fun t => t.regs[0] == 0x0#32 && field (cpsrWord t) 28 4 == 6#4)
    && completes 0xE0D10002 (state 0x30#32 0xD3#32 [(1, 0x5#32), (2, 0x5#32)] [])
      (fun t => t.regs[0] == 0xFFFFFFFF#32 && field (cpsrWord t) 28 4 == 8#4)) = true := by decide +kernel

/-- spec/95_test_vectors.md section 2.2. -/
theorem test_rsc :
    (completes 0xE2F10000 (state 0x30#32 0xD3#32 [(1, 0x0#32)] [])
      (fun t => t.regs[0] == 0xFFFFFFFF#32 && field (cpsrWord t) 28 4 == 8#4)
    && completes 0xE2F10000 (state 0x30#32 0x200000D3#32 [(1, 0x0#32)] [])
      (fun t => t.regs[0] == 0x0#32 && field (cpsrWord t) 28 4 == 6#4)) = true := by decide +kernel

/-- spec/95_test_vectors.md section 2.2. -/
theorem test_tst :
    (completes 0xE31104FF (state 0x30#32 0xD3#32 [(1, 0xFFFFFF#32)] [])
      (fun t => t.regs[0] == 0x0#32 && field (cpsrWord t) 28 4 == 6#4)) = true := by decide +kernel

/-- spec/95_test_vectors.md section 2.2. -/
theorem test_teq :
    (completes 0xE1310002 (state 0x30#32 0x200000D3#32 [(1, 0x80000000#32), (2, 0x1#32)] [])
      (fun t => t.regs[0] == 0x0#32 && field (cpsrWord t) 28 4 == 10#4)) = true := by decide +kernel

/-- spec/95_test_vectors.md section 2.2. -/
theorem test_cmp :
    (completes 0xE1510002 (state 0x30#32 0xD3#32 [(1, 0x3#32), (2, 0x5#32)] [])
      (fun t => t.regs[0] == 0x0#32 && field (cpsrWord t) 28 4 == 8#4)
    && completes 0xE1510002 (state 0x30#32 0xD3#32 [(1, 0x80000000#32), (2, 0x7FFFFFFF#32)] [])
      (fun t => t.regs[0] == 0x0#32 && field (cpsrWord t) 28 4 == 3#4)) = true := by decide +kernel

/-- spec/95_test_vectors.md section 2.2. -/
theorem test_cmn :
    (completes 0xE1710002 (state 0x30#32 0xD3#32 [(1, 0x1#32), (2, 0xFFFFFFFF#32)] [])
      (fun t => t.regs[0] == 0x0#32 && field (cpsrWord t) 28 4 == 6#4)
    && completes 0xE1710002 (state 0x30#32 0xD3#32 [(1, 0x7FFFFFFF#32), (2, 0x1#32)] [])
      (fun t => t.regs[0] == 0x0#32 && field (cpsrWord t) 28 4 == 9#4)) = true := by decide +kernel

/-- spec/95_test_vectors.md section 2.2. -/
theorem test_orr :
    (completes 0xE1910022 (state 0x30#32 0xD3#32 [(1, 0x0#32), (2, 0x80000000#32)] [])
      (fun t => t.regs[0] == 0x0#32 && field (cpsrWord t) 28 4 == 6#4)) = true := by decide +kernel

/-- spec/95_test_vectors.md section 2.2. -/
theorem test_mov :
    (completes 0xE1B00042 (state 0x30#32 0xD3#32 [(2, 0x80000000#32)] [])
      (fun t => t.regs[0] == 0xFFFFFFFF#32 && field (cpsrWord t) 28 4 == 10#4)
    && completes 0xE1B00372 (state 0x30#32 0xD3#32 [(2, 0x80000001#32), (3, 0x24#32)] [])
      (fun t => t.regs[0] == 0x18000000#32 && field (cpsrWord t) 28 4 == 0#4)) = true := by decide +kernel

/-- spec/95_test_vectors.md section 2.2. -/
theorem test_bic :
    (completes 0xE3D104FF (state 0x30#32 0xD3#32 [(1, 0xEF00026B#32)] [])
      (fun t => t.regs[0] == 0x26B#32 && field (cpsrWord t) 28 4 == 2#4)) = true := by decide +kernel

/-- spec/95_test_vectors.md section 2.2. -/
theorem test_mvn :
    (completes 0xE3F00000 (state 0x30#32 0x200000D3#32 [] [])
      (fun t => t.regs[0] == 0xFFFFFFFF#32 && field (cpsrWord t) 28 4 == 10#4)) = true := by decide +kernel

/-- spec/95_test_vectors.md section 2.2: shifts by register amounts 32, 33 and 256. -/
theorem test_register_shifts :
    (completes 0xE1B00312 (state 0x30#32 0xD3#32 [(2, 0x1#32), (3, 0x20#32)] [])
      (fun t => t.regs[0] == 0x0#32 && field (cpsrWord t) 28 4 == 6#4)
    && completes 0xE1B00312 (state 0x30#32 0x200000D3#32 [(2, 0x1#32), (3, 0x21#32)] [])
      (fun t => t.regs[0] == 0x0#32 && field (cpsrWord t) 28 4 == 4#4)
    && completes 0xE1B00312 (state 0x30#32 0x200000D3#32 [(2, 0x1#32), (3, 0x100#32)] [])
      (fun t => t.regs[0] == 0x1#32 && field (cpsrWord t) 28 4 == 2#4)) = true := by decide +kernel

/-- R40, R590: the pc reads as 8 or 12 ahead. -/
theorem test_r15_operands :
    (completes 0xE28F0000 (state 0x30#32 0xD3#32 [] [])
      (fun t => t.regs[0] == 0x8008#32)
    && completes 0xE08F0211 (state 0x30#32 0xD3#32 [] [])
      (fun t => t.regs[0] == 0x800C#32)) = true := by decide +kernel

/-- R319, R336. -/
theorem test_return_and_test_to_r15 :
    (completes 0xE25EF004 { state 0x30#32 0x92#32 [(23, 0x8010#32)] [] with spsrIrq := psrOfWord 0x10#32 }
      (fun t => t.pc == 0x800C#32 && cpsrWord t == 0x10#32)
    && completes 0xE330F000 { state 0x30#32 0xD3#32 [] [] with spsrSvc := psrOfWord 0x90000010#32 }
      (fun t => cpsrWord t == 0x90000010#32 && t.pc == 0x8004#32)) = true := by decide +kernel

/-- R351: the pc moves on and nothing but Rd changes. -/
theorem test_mrs :
    (completes 0xE14F1000 { state 0x30#32 0x13#32 [(2, 0x5#32)] [] with spsrSvc := psrOfWord 0x30000092#32 }
      (fun t => t.regs[2] == 0x5#32 && cpsrWord t == 0x13#32 && t.pc == 0x8004#32)) = true := by decide +kernel

/-- R352. -/
theorem test_msr :
    (completes 0xE129F000 (state 0x30#32 0x13#32 [(0, 0xF00000D1#32)] [])
      (fun t => cpsrWord t == 0xF00000D1#32)
    && completes 0xE129F000 (state 0x30#32 0x10#32 [(0, 0xF000001F#32)] [])
      (fun t => cpsrWord t == 0xF0000010#32)) = true := by decide +kernel

/-- R354, R355. -/
theorem test_msr_flags :
    (completes 0xE128F000 (state 0x30#32 0x13#32 [(0, 0xF000001F#32)] [])
      (fun t => cpsrWord t == 0xF0000013#32)
    && completes 0xE368F20C { state 0x30#32 0x13#32 [] [] with spsrSvc := psrOfWord 0x30000092#32 }
      (fun t => spsrWord t.spsrSvc == 0xC0000092#32)) = true := by decide +kernel

/-- R371. -/
theorem test_mul :
    (completes 0xE0010392 (state 0x30#32 0xD3#32 [(2, 0x12345678#32), (3, 0x9ABCDEF0#32)] [])
      (fun t => t.regs[1] == 0x242D2080#32 && cpsrWord t == 0xD3#32)
    && completes 0xE0010391 (state 0x30#32 0xD3#32 [(1, 0x6#32), (3, 0x7#32)] [])
      (fun t => t.regs[1] == 0x0#32)) = true := by decide +kernel

/-- R372. -/
theorem test_mla :
    (completes 0xE0214392 (state 0x30#32 0xD3#32 [(2, 0x3#32), (3, 0x5#32), (4, 0xFFFFFFFF#32)] [])
      (fun t => t.regs[1] == 0xE#32)
    && completes 0xE0211392 (state 0x30#32 0xD3#32 [(2, 0x3#32), (3, 0x5#32), (1, 0x64#32)] [])
      (fun t => t.regs[1] == 0x73#32)) = true := by decide +kernel

/-- R384: unaligned and post-indexed; R103: big-endian. -/
theorem test_ldr :
    (completes 0xE4910004 (state 0x30#32 0xD3#32 [(1, 0x1000#32)] [(0x1000#32, 0x44332211#32), (0x1004#32, 0x88776655#32)])
      (fun t => t.regs[0] == 0x44332211#32 && t.regs[1] == 0x1004#32)
    && completes 0xE5910001 (state 0x30#32 0xD3#32 [(1, 0x1000#32)] [(0x1000#32, 0x44332211#32), (0x1004#32, 0x88776655#32)])
      (fun t => t.regs[0] == 0x11443322#32)) = true := by decide +kernel

/-- R385. -/
theorem test_ldrb :
    (completes 0xE7D100A2 (state 0x30#32 0xD3#32 [(1, 0x1000#32), (2, 0xA#32)] [(0x1000#32, 0x44332211#32), (0x1004#32, 0x88776655#32)])
      (fun t => t.regs[0] == 0x66#32)
    && completes 0xE7D100A2 (state 0xB0#32 0xD3#32 [(1, 0x1000#32), (2, 0xA#32)] [(0x1000#32, 0x44332211#32), (0x1004#32, 0x88776655#32)])
      (fun t => t.regs[0] == 0x77#32)) = true := by decide +kernel

/-- R386. -/
theorem test_str :
    (completes 0xE7A21003 (state 0x30#32 0xD3#32 [(2, 0x1000#32), (3, 0x8#32), (1, 0xCAFE0001#32)] [])
      (fun t => memAt t 0x1008#32 == 0xCAFE0001#32 && t.regs[2] == 0x1008#32)
    && completes 0xE5810002 (state 0x30#32 0xD3#32 [(0, 0xDEADBEEF#32), (1, 0x1000#32)] [])
      (fun t => memAt t 0x1000#32 == 0xDEADBEEF#32)) = true := by decide +kernel

/-- R387. -/
theorem test_strb :
    (completes 0xE5C10001 (state 0x30#32 0xD3#32 [(0, 0x123456AB#32), (1, 0x1000#32)] [(0x1000#32, 0x44332211#32), (0x1004#32, 0x88776655#32)])
      (fun t => memAt t 0x1000#32 == 0x4433AB11#32)
    && completes 0xE5C10001 (state 0xB0#32 0xD3#32 [(0, 0x123456AB#32), (1, 0x1000#32)] [(0x1000#32, 0x44332211#32), (0x1004#32, 0x88776655#32)])
      (fun t => memAt t 0x1000#32 == 0x44AB2211#32)) = true := by decide +kernel

/-- R120, R392, R525: an alignment fault, and the late abort base. -/
theorem test_data_abort :
    (completes 0xE5910003 (state 0x32#32 0x10#32 [(0, 0x63#32), (1, 0x1000#32)] [])
      (fun t => t.regs[27] == 0x8008#32 && spsrWord t.spsrAbt == 0x10#32 && cpsrWord t == 0x97#32 && t.pc == 0x10#32 && t.regs[0] == 0x63#32 && t.far == 0x1003#32)
    && completes 0xE5B10004 { state 0x70#32 0xD3#32 [(0, 0x3#32), (1, 0x1000#32)] [] with abortRanges := [(0x1004, 0x1008)] }
      (fun t => t.regs[0] == 0x3#32 && t.regs[1] == 0x1004#32 && t.regs[27] == 0x8008#32)) = true := by decide +kernel

/-- R415, R420. -/
theorem test_ldm :
    (completes 0xE93000A2 (state 0x30#32 0xD3#32 [(0, 0x1000#32)] [(0xFF4#32, 0xB#32), (0xFF8#32, 0x37#32), (0xFFC#32, 0x4D#32)])
      (fun t => t.regs[1] == 0xB#32 && t.regs[5] == 0x37#32 && t.regs[7] == 0x4D#32 && t.regs[0] == 0xFF4#32)
    && completes 0xE8FD8000 { state 0x30#32 0x92#32 [(22, 0x1000#32)] [(0x1000#32, 0x8001#32)] with spsrIrq := psrOfWord 0x60000010#32 }
      (fun t => t.pc == 0x8000#32 && cpsrWord t == 0x60000010#32 && t.regs[22] == 0x1004#32)) = true := by decide +kernel

/-- R416, R418. -/
theorem test_stm :
    (completes 0xE82000A2 (state 0x30#32 0xD3#32 [(0, 0x1000#32), (1, 0xB#32), (5, 0x37#32), (7, 0x4D#32)] [])
      (fun t => memAt t 0xFF8#32 == 0xB#32 && memAt t 0xFFC#32 == 0x37#32 && memAt t 0x1000#32 == 0x4D#32 && t.regs[0] == 0xFF4#32)
    && completes 0xE8A10003 (state 0x30#32 0xD3#32 [(0, 0x7#32), (1, 0x2000#32)] [])
      (fun t => memAt t 0x2000#32 == 0x7#32 && memAt t 0x2004#32 == 0x2008#32 && t.regs[1] == 0x2008#32)) = true := by decide +kernel

/-- R441. -/
theorem test_swp :
    (completes 0xE1020091 (state 0x30#32 0xD3#32 [(1, 0xDEADBEEF#32), (2, 0x1002#32)] [(0x1000#32, 0x44332211#32), (0x1004#32, 0x88776655#32)])
      (fun t => t.regs[0] == 0x22114433#32 && memAt t 0x1000#32 == 0xDEADBEEF#32)) = true := by decide +kernel

/-- R442. -/
theorem test_swpb :
    (completes 0xE1442093 (state 0x30#32 0xD3#32 [(3, 0x1234ABCD#32), (4, 0x1001#32)] [(0x1000#32, 0x44332211#32), (0x1004#32, 0x88776655#32)])
      (fun t => t.regs[2] == 0x22#32 && memAt t 0x1000#32 == 0x4433CD11#32)) = true := by decide +kernel

/-- R283, R284. -/
theorem test_branch :
    (completes 0xEAFFFFFE (state 0x30#32 0xD3#32 [] [])
      (fun t => t.pc == 0x8000#32)
    && completes 0xEB5FFFFE (state 0x30#32 0xD3#32 [] [])
      (fun t => t.regs[25] == 0x8004#32 && t.pc == 0x1808000#32)) = true := by decide +kernel

/-- R451. -/
theorem test_swi :
    (completes 0xEF00026B (state 0x30#32 0x20000010#32 [] [])
      (fun t => t.regs[25] == 0x8004#32 && spsrWord t.spsrSvc == 0x20000010#32 && cpsrWord t == 0x20000093#32 && t.pc == 0x8#32)) = true := by decide +kernel

/-- R455. -/
theorem test_undefined :
    (completes 0xE6000010 (state 0x30#32 0x10#32 [] [])
      (fun t => t.regs[29] == 0x8004#32 && spsrWord t.spsrUnd == 0x10#32 && cpsrWord t == 0x9B#32 && t.pc == 0x4#32)
    && completes 0x06000010 (state 0x30#32 0x10#32 [] [])
      (fun t => cpsrWord t == 0x10#32 && t.pc == 0x8004#32)) = true := by decide +kernel

/-- R463, R464. -/
theorem test_coprocessor_refused :
    (completes 0xEEA21103 (state 0x30#32 0x10#32 [] [])
      (fun t => t.regs[29] == 0x8004#32 && spsrWord t.spsrUnd == 0x10#32 && cpsrWord t == 0x9B#32 && t.pc == 0x4#32)) = true := by decide +kernel

/-- R467. -/
theorem test_stc :
    (completes 0x0DE53206 { state 0x30#32 0x400000D3#32 [(5, 0x5000#32)] [] with coprocTape := [.accept 2 [0xAAAA0001#32, 0xAAAA0002#32]] }
      (fun t => memAt t 0x5018#32 == 0xAAAA0001#32 && memAt t 0x501C#32 == 0xAAAA0002#32 && t.regs[5] == 0x5018#32 && t.pc == 0x8004#32)) = true := by decide +kernel

/-- R470. -/
theorem test_mrc :
    (completes 0xEEB53216 { state 0x30#32 0xD3#32 [] [] with coprocTape := [.accept 0 [0x6FFFFFFF#32]] }
      (fun t => t.regs[3] == 0x6FFFFFFF#32)
    && completes 0xEEB5F216 { state 0x30#32 0xD3#32 [] [] with coprocTape := [.accept 0 [0x6FFFFFFF#32]] }
      (fun t => cpsrWord t == 0x600000D3#32 && t.pc == 0x8004#32)) = true := by decide +kernel

/-- R487, R491. -/
theorem test_cp15_reads :
    (completes 0xEE100F10 (state 0x30#32 0xD3#32 [] [])
      (fun t => t.regs[0] == 0x41560601#32)
    && completes 0xEE160F10 { state 0x30#32 0xD3#32 [] [] with far := 0x1234#32 }
      (fun t => t.regs[0] == 0x1234#32)) = true := by decide +kernel

/-- R488, R489, R495. -/
theorem test_cp15_writes :
    (completes 0xEE020F10 (state 0x30#32 0xD3#32 [(0, 0x12345678#32)] [])
      (fun t => place 14 t.ttb == 0x12344000#32)
    && completes 0xEE010F10 (state 0x30#32 0xD3#32 [(0, 0xFFFFFFFF#32)] [])
      (fun t => t.control == controlOfWord 0x1FF#32)
    && completes 0xEE030F10 (state 0x30#32 0xD3#32 [(0, 0x5#32)] [])
      (fun t => t.dacr == 5#32)) = true := by decide +kernel

/-- R139, R81, R484. -/
theorem test_cp15_refusals :
    (refuses 0xEE010F10 (state 0x30#32 0xD3#32 [(0, 0x3C#32)] []) .invalidCombination
    && refuses 0xEE010F10 { state 0x30#32 0xD3#32 [(0, 0x11#32)] [] with cfg26 := .refuse } .cfg26
    && completes 0xEE100F10 (state 0x30#32 0x10#32 [] [])
      (fun t => t.regs[29] == 0x8004#32 && cpsrWord t == 0x9B#32 && t.pc == 0x4#32)) = true := by decide +kernel

/-- R520, R521, R540: section 2.12. -/
theorem test_interrupts :
    (completes 0xE1A00000 { state 0x30#32 0x20000010#32 [] [] with inputs := [⟨false, true, true, []⟩] }
      (fun t => t.regs[21] == 0x8004#32 && spsrWord t.spsrFiq == 0x20000010#32 && cpsrWord t == 0x200000D1#32 && t.pc == 0x1C#32)
    && completes 0xE1A00000 { state 0x30#32 0x20000050#32 [] [] with inputs := [⟨false, true, true, []⟩] }
      (fun t => t.regs[23] == 0x8004#32 && spsrWord t.spsrIrq == 0x20000050#32 && cpsrWord t == 0x200000D2#32 && t.pc == 0x18#32)) = true := by decide +kernel

/-- spec/21_mmu.md: a section, a small page and a large page. -/
theorem test_translation :
    (completes 0xE5910000 { state 0x31#32 0x10#32 [(1, 0x12345678#32), (0, 0x7#32)] [(0x4000#32, 0xC1E#32), (0x448C#32, 0xAB000C1E#32), (0xAB045678#32, 0xDEAD#32)] with ttb := 1#18, dacr := 0x5#32 }
      (fun t => t.regs[0] == 0xDEAD#32)
    && completes 0xE5910000 { state 0x31#32 0x10#32 [(1, 0x12345678#32), (0, 0x7#32)] [(0x4000#32, 0xC1E#32), (0x448C#32, 0x8431#32), (0x8514#32, 0xCD012FFE#32), (0xCD012678#32, 0xDEAD#32)] with ttb := 1#18, dacr := 0x5#32 }
      (fun t => t.regs[0] == 0xDEAD#32)
    && completes 0xE5910000 { state 0x31#32 0x10#32 [(1, 0x12345678#32), (0, 0x7#32)] [(0x4000#32, 0xC1E#32), (0x448C#32, 0x8431#32), (0x8514#32, 0xEF010FFD#32), (0xEF015678#32, 0xDEAD#32)] with ttb := 1#18, dacr := 0x5#32 }
      (fun t => t.regs[0] == 0xDEAD#32)) = true := by decide +kernel

/-- R200: a translation and a domain fault. -/
theorem test_translation_faults :
    (completes 0xE5910000 { state 0x31#32 0x10#32 [(1, 0x12345678#32), (0, 0x7#32)] [(0x4000#32, 0xC1E#32), (0x448C#32, 0x0#32)] with ttb := 1#18, dacr := 0x5#32 }
      (fun t => t.fsr == 0x5#8 && t.far == 0x12345678#32)
    && completes 0xE5910000 { state 0x31#32 0x10#32 [(1, 0x12345678#32), (0, 0x7#32)] [(0x4000#32, 0xC1E#32), (0x448C#32, 0xAB000C3E#32)] with ttb := 1#18, dacr := 0x9#32 }
      (fun t => t.fsr == 0x19#8 && t.far == 0x12345678#32)) = true := by decide +kernel

/-- R524. -/
theorem test_prefetch_abort :
    (completes 0xE1A00000 { state 0x31#32 0x10#32 [] [] with ttb := 1#18, dacr := 1#32 }
      (fun t => t.regs[27] == 0x8004#32 && spsrWord t.spsrAbt == 0x10#32 && cpsrWord t == 0x97#32 && t.pc == 0xC#32 && t.far == 0x0#32)) = true := by decide +kernel

/-- R257, R357, R391, R412, R426. -/
theorem test_refusals :
    (refuses 0xE129F00F (state 0x30#32 0xD3#32 [] []) .pcOperand
    && refuses 0xE10FF000 (state 0x30#32 0xD3#32 [] []) .pcOperand
    && refuses 0xE8FD8000 (state 0x30#32 0x10#32 [] []) .spsrInUser
    && refuses 0xE4B10004 (state 0x30#32 0xD3#32 [] []) .postIndexedW
    && refuses 0xE8800000 (state 0x30#32 0xD3#32 [] []) .emptyList
    && refuses 0xE00103B2 (state 0x30#32 0xD3#32 [] []) (.unallocated .multiplySpace)) = true := by decide +kernel

/-- R124, R148: another bus master between two loads of one LDM, and a device that answers a read. -/
theorem test_other_masters :
    (completes 0xE891000C { state 0x30#32 0xD3#32 [(1, 0x1000#32)] [(0x1000#32, 0x44332211#32), (0x1004#32, 0x88776655#32)] with busTape := [⟨[], false, none, false⟩, ⟨[], false, none, false⟩, ⟨[], false, none, false⟩, ⟨[], false, none, false⟩, ⟨[(0x1000#32, 9#32), (0x1004#32, 5#32)], false, none, false⟩] }
      (fun t => t.regs[2] == 0x44332211#32 && t.regs[3] == 0x5#32)
    && completes 0xE5910000 { state 0x30#32 0xD3#32 [(1, 0x1000#32)] [(0x1000#32, 0x44332211#32), (0x1004#32, 0x88776655#32)] with busTape := [⟨[], false, none, false⟩, ⟨[], false, none, false⟩, ⟨[], false, none, false⟩, ⟨[], false, some 9#32, false⟩] }
      (fun t => t.regs[0] == 0x9#32 && memAt t 0x1000#32 == 0x44332211#32)) = true := by decide +kernel

/-- R571, R444: a reset inside an LDM, and an abort of the write of a SWP alone. -/
theorem test_inside_an_instruction :
    (completes 0xE891000C { state 0x30#32 0x10#32 [(1, 0x1000#32)] [(0x1000#32, 0x44332211#32), (0x1004#32, 0x88776655#32)] with busTape := [⟨[], false, none, false⟩, ⟨[], false, none, false⟩, ⟨[], false, none, false⟩, ⟨[], false, none, false⟩, ⟨[], false, none, true⟩] }
      (fun t => t.pc == 0x0#32 && t.cpsr.mode == .svc && t.control == Control.zero && t.waiting == none)
    && completes 0xE1020091 { state 0x30#32 0x10#32 [(0, 0x3#32), (1, 0x5#32), (2, 0x1000#32)] [(0x1000#32, 0x44332211#32), (0x1004#32, 0x88776655#32)] with busTape := [⟨[], false, none, false⟩, ⟨[], false, none, false⟩, ⟨[], false, none, false⟩, ⟨[], false, none, false⟩, ⟨[], true, none, false⟩] }
      (fun t => t.regs[0] == 0x3#32 && t.regs[27] == 0x8008#32 && spsrWord t.spsrAbt == 0x10#32 && t.pc == 0x10#32 && t.far == 0x1000#32)) = true := by decide +kernel

/-- R462, R590: the instruction waits as if it had not started. -/
theorem test_busy_wait :
    (completes 0xEEA21103 { state 0x30#32 0xD3#32 [] [] with coprocTape := [.busy], hazard := 1 }
      (fun t => t.pc == 0x8000#32 && cpsrWord t == 0xD3#32 && t.waiting == some 0xEEA21103#32 && t.hazard == 1)
    && completes 0xEEA21103 { state 0x30#32 0xD3#32 [] [] with coprocTape := [.neverReady] }
      (fun t => t.pc == 0x8000#32 && t.waiting == some 0xEEA21103#32 && t.coprocTape == [.neverReady])) = true := by decide +kernel

/-- R421, R590: the User register, with no hazard. -/
theorem test_user_bank_store :
    (completes 0xE8C12000 { state 0x30#32 0xD3#32 [(1, 0x1000#32), (13, 0x7#32), (24, 0x8#32)] [] with hazard := 1 }
      (fun t => memAt t 0x1000#32 == 0x7#32)) = true := by decide +kernel

/-- R351: the word MRS gives, whatever the reserved bits are. -/
theorem test_mrs_bits (x : Word) :
    field (psrWord (psrOfWord 0x30000092#32) x) 28 4 = 3#4
    ∧ field (psrWord (psrOfWord 0x30000092#32) x) 6 2 = 2#2
    ∧ field (psrWord (psrOfWord 0x30000092#32) x) 0 5 = 0x12#5 := by
  refine ⟨?_, ?_, ?_⟩ <;>
    (apply BitVec.eq_of_getLsbD_eq; intro i hi; simp [psrWord]; interval_cases i <;>
      simp (decide := true) [place, psrOfWord, wbit])

/-! ### Witnesses: for each statement with hypotheses, states and operands that meet them -/

/-- Supervisor mode, flat memory, words at 0x1000. -/
def svc : State := state 0x30#32 0xD3#32 [(1, 0x1000#32), (2, 8#32)] [(0x1000#32, 0x44332211#32), (0x1004#32, 0x88776655#32)]

/-- User mode, flat memory. -/
def usr : State := state 0x30#32 0x10#32 [(1, 0x1000#32), (2, 8#32)] []

/-- Supervisor mode whose SPSR holds User mode. -/
def svcFromUser : State := { svc with spsrSvc := psrOfWord 0x10#32 }

/-- Supervisor mode with the bus word at 0x1000 answering ABORT. -/
def aborting : State := { svc with abortRanges := [(0x1000, 0x1004)] }

/-- Supervisor mode with the MMU on, a table at 0x4000 and `l1` as the descriptor of 0x12300000; every domain client. -/
def mapped (l1 : Word) : State :=
  { state 0x31#32 0xD3#32 [(1, 0x12345678#32)] [(0x4000#32, 0xC1E#32), (0x448C#32, l1)] with
    ttb := 1#18, dacr := 0x55555555#32 }

/-- The access is done. -/
def isDone {α : Type} (x : Access α) : Bool :=
  match x with
  | .done _ _ => true
  | .abort _ _ => false
  | .halt _ => false

/-- The access aborts. -/
def isAbort {α : Type} (x : Access α) : Bool :=
  match x with
  | .done _ _ => false
  | .abort _ _ => true
  | .halt _ => false

theorem exists_done {α : Type} {x : Access α} (h : isDone x = true) : ∃ a u, x = .done a u := by
  cases x <;> simp_all [isDone]

theorem exists_abort {α : Type} {x : Access α} (h : isAbort x = true) : ∃ f u, x = .abort f u := by
  cases x <;> simp_all [isAbort]

/-- A next state, a fault, a refusal. -/
def kind (r : Result) : Nat :=
  match r with
  | .next _ => 0
  | .fault _ => 1
  | .refused _ => 2

theorem exists_next {r : Result} (h : kind r = 0) : ∃ t, r = .next t := by
  cases r <;> simp_all [kind]

theorem exists_refused {r : Result} (h : kind r = 2) : ∃ x, r = .refused x := by
  cases r <;> simp_all [kind]

theorem svc_flat : Flat svc ∧ Memory.wf svc.mem = true := ⟨⟨rfl, rfl, rfl, rfl, rfl, rfl, rfl⟩, by decide +kernel⟩

theorem usr_flat : Flat usr := ⟨rfl, rfl, rfl, rfl, rfl, rfl, rfl⟩

/-- EncodeThenDecode, DecodeThenEncode. -/
theorem witness_encoding :
    (Instr.mrc ⟨.nv, 7#3, 1#4, 15#4, 15#4, 7#3, 15#4⟩).wellFormed = true
    ∧ (Instr.mcr ⟨.eq, 0#3, 4#4, 0#4, 15#4, 0#3, 0#4⟩).wellFormed = true
    ∧ decodeWord 0xFFFFFFFF#32 = .ok (.swi ⟨.nv, 0xFFFFFF#24⟩) := by decide

/-- The fetch of the first part of StepRunsTheInstruction and PrefetchAbort, as one answer. -/
def boundary (s : State) : Option (Fetched × State) :=
  match State.drainSome { s with inputs := s.inputs.tail, mem := applyDma s.nextInputs.dma s.mem } with
  | .done _ s2 =>
    match s2.fetchStage with
    | .done f s3 => some (f, s3)
    | .abort _ _ => none
    | .halt _ => none
  | .abort _ _ => none
  | .halt _ => none

theorem exists_boundary {s : State} {w : Option Word} (h : (boundary s).map (fun p => p.1.word) = some w) :
    ∃ s2 s3 f, State.drainSome { s with inputs := s.inputs.tail, mem := applyDma s.nextInputs.dma s.mem } = .done () s2
      ∧ s2.fetchStage = .done f s3 ∧ f.word = w := by
  unfold boundary at h
  split at h
  · split at h
    · simp at h
      exact ⟨_, _, _, by assumption, by assumption, h⟩
    · simp at h
    · simp at h
  · simp at h
  · simp at h

/-- StepRunsTheInstruction, first part: a masked FIQ and IRQ, and a word that runs. -/
theorem witness_StepRuns_fetch :
    let s := { svc.withFetchWord 32 0xE0010392 with inputs := [⟨false, true, true, [(0x2000#32, 5#32)]⟩] }
    s.waiting = none ∧ s.nextInputs.reset = false ∧ (s.nextInputs.fiq = true → s.cpsr.f = true)
    ∧ (s.nextInputs.irq = true → s.cpsr.i = true)
    ∧ (∃ s2 s3 f, State.drainSome { s with inputs := s.inputs.tail, mem := applyDma s.nextInputs.dma s.mem } = .done () s2
      ∧ s2.fetchStage = .done f s3 ∧ f.word = some 0xE0010392#32) :=
  ⟨rfl, by decide +kernel, by decide +kernel, by decide +kernel, exists_boundary (by decide +kernel)⟩

/-- StepRunsTheInstruction: an instruction that waits for its coprocessor. -/
theorem witness_StepRuns_waiting :
    let s : State := { svc with waiting := some 0xEEA21103#32 }
    s.nextInputs.reset = false ∧ s.nextInputs.fiq = false ∧ s.nextInputs.irq = false
    ∧ (∃ s2, State.drainSome { s with inputs := s.inputs.tail, mem := applyDma s.nextInputs.dma s.mem } = .done () s2)
    ∧ decodeWord 0xEEA21103#32 = .ok (.cdp ⟨.al, 10#4, 2#4, 1#4, 1#4, 0#3, 3#4⟩) :=
  ⟨rfl, rfl, rfl, ⟨_, drainSome_nil rfl⟩, by decide⟩

/-- StepRunsTheInstruction: both outcomes, and words that are no instruction with a condition that passes and
one that fails. -/
theorem witness_StepRuns_outcomes :
    let s : State := { svc with prefetch := [⟨some 0#32, svc.control, true⟩, ⟨some 0#32, svc.control, true⟩] }
    (∃ t, exec (.mul ⟨.al, false, 1#4, 0#4, 3#4, 2#4⟩) s = .next t)
    ∧ (∃ r, exec (.mul ⟨.al, false, 15#4, 0#4, 3#4, 2#4⟩) s = .refused r)
    ∧ decodeWord 0xE00103B2#32 = .error .multiplySpace ∧ condPassed (condOf 0xE00103B2#32) s.cpsr = true
    ∧ decodeWord 0x000103B2#32 = .error .multiplySpace ∧ condPassed (condOf 0x000103B2#32) s.cpsr = false :=
  ⟨exists_next (by decide +kernel), exists_refused (by decide +kernel), by decide, by decide +kernel, by decide, by decide +kernel⟩

/-- StepRunsTheInstruction, second part. -/
theorem witness_StepRuns_flat :
    let s := svc.withFetchWord 32 0xE0010392
    Flat s ∧ s.prefetch = [] ∧ s.waiting = none ∧ s.inputs = []
    ∧ decodeWord (Memory.readWord s.mem s.pc) = .ok (.mul ⟨.al, false, 1#4, 0#4, 3#4, 2#4⟩) :=
  ⟨⟨rfl, rfl, rfl, rfl, rfl, rfl, rfl⟩, rfl, rfl, rfl, by decide +kernel⟩

/-- PrefetchedWordsRun: another control register with the same and with another M bit, another privilege, the same
settings. -/
theorem witness_PrefetchedWordsRun :
    let f : Fetched := ⟨some 0#32, svc.control, true⟩
    (∃ old, ({ svc with control := Control.zero, prefetch := [f] } : State).prefetch[0]? = some old
      ∧ old.control ≠ Control.zero)
    ∧ ({ svc with control := { svc.control with m := true }, prefetch := [f] } : State).prefetch[0]? = some f
    ∧ f.control.m ≠ { svc.control with m := true }.m
    ∧ ({ usr with prefetch := [f, f] } : State).prefetch[1]? = some f ∧ f.privileged ≠ usr.privileged
    ∧ f.control = svc.control ∧ f.privileged = svc.privileged :=
  ⟨⟨_, rfl, by decide +kernel⟩, rfl, by decide +kernel, rfl, by decide +kernel, rfl, by decide +kernel⟩

/-- InterruptsAreTaken: both lines LOW with nothing masked; the FIQ masked; no FIQ. ResetForces. -/
theorem witness_InterruptsAreTaken :
    let s : State := { usr with inputs := [⟨false, true, true, []⟩] }
    let m : State := { s with cpsr := { usr.cpsr with f := true } }
    let q : State := { usr with inputs := [⟨false, false, true, [(0#32, 1#32)]⟩] }
    let r : State := { usr with inputs := [⟨true, true, true, []⟩] }
    s.nextInputs.reset = false ∧ s.nextInputs.fiq = true ∧ s.cpsr.f = false
    ∧ ({ svc with busTape := [⟨[(0x1000#32, 1#32)], false, none, true⟩] } : State).busAnswer.reset = true
    ∧ m.nextInputs.irq = true ∧ m.cpsr.i = false ∧ m.cpsr.f = true
    ∧ q.nextInputs.irq = true ∧ q.cpsr.i = false ∧ q.nextInputs.fiq = false
    ∧ r.nextInputs.reset = true ∧ r.writeBuffer = []
    ∧ ({ aborting with writeBuffer := [⟨0x1000#32, .word 1#32, false⟩], inputs := r.inputs } : State).nextInputs.reset = true
    ∧ aborting.aborts 0x1000#32 = true := by decide +kernel

/-- PrefetchAbort: an unmapped pc; a bus word that answers ABORT. -/
theorem witness_PrefetchAbort :
    let s : State := { state 0x31#32 0x10#32 [] [] with ttb := 1#18, dacr := 1#32 }
    let u : State := { usr with abortRanges := [(0x8000, 0x8004)] }
    s.nextInputs.reset = false ∧ s.nextInputs.fiq = false ∧ s.nextInputs.irq = false
    ∧ (∃ s2 s3 f, State.drainSome { s with inputs := s.inputs.tail, mem := applyDma s.nextInputs.dma s.mem } = .done () s2
      ∧ s2.fetchStage = .done f s3 ∧ f.word = none)
    ∧ Flat { u with abortRanges := [] } ∧ s.waiting = none ∧ u.prefetch = [] ∧ u.waiting = none ∧ u.inputs = [] ∧ u.aborts u.pc = true :=
  ⟨by decide +kernel, by decide +kernel, by decide +kernel, exists_boundary (by decide +kernel),
    ⟨rfl, rfl, rfl, rfl, rfl, rfl, rfl⟩, rfl, rfl, rfl, rfl, by decide +kernel⟩

/-- FailedConditionSkips, and the second halves of SoftwareInterrupt and UndefinedInstruction. -/
theorem witness_FailedCondition :
    condPassed (instrCond (.swi ⟨.nv, 0#24⟩)) svc.cpsr = false
    ∧ condPassed (instrCond (.undefined ⟨.eq, 0#20, 0#4⟩)) svc.cpsr = false := by decide +kernel

/-- BankSelection, RegisterReads: register numbers at the edges of the banks, and the hazard of the next instruction. -/
theorem witness_registers :
    (7#4 ≠ 15#4 ∧ 14#4 ≠ 15#4) ∧ phys .fiq 7#4 = phys .usr 7#4 ∧ phys .fiq 8#4 ≠ phys .usr 8#4
    ∧ phys .irq 12#4 = phys .usr 12#4 ∧ phys .irq 13#4 ≠ phys .usr 13#4 ∧ Mode.und ≠ .usr
    ∧ svc.hazard ≠ 1 ∧ phys ({ svc with hazard := 1 } : State).cpsr.mode 12#4 = phys .usr 12#4 := by decide +kernel

/-- DataProcessingResults, DataProcessingToPc: the condition, Rd and Rs of each form. -/
theorem witness_DataProcessing :
    aluWrites .mvn = true ∧ condPassed (⟨.al, true, 0#4, 14#4, 15#4, 255#8⟩ : DpImm).cond svc.cpsr = true
    ∧ condPassed (⟨.ne, true, 15#4, 14#4, 31#5, .ror, 15#4⟩ : DpShift).cond svc.cpsr = true
    ∧ condPassed (⟨.pl, false, 15#4, 15#4, 14#4, .asr, 15#4⟩ : DpRegShift).cond svc.cpsr = true
    ∧ (14#4 : RegNum) ≠ 15#4 := by decide +kernel

/-- TestsWriteFlags: a test; in User mode and with an SPSR that holds a mode, and one that holds none. -/
theorem witness_Tests :
    aluWrites .cmn = false ∧ condPassed .al svc.cpsr = true ∧ condPassed .al usr.cpsr = true
    ∧ dpImm .teq ⟨.al, true, 0#4, 15#4, 0#4, 0#8⟩ = .teqImm ⟨.al, 0#4, 15#4, 0#4, 0#8⟩ ∧ usr.cpsr.mode = .usr
    ∧ svcFromUser.spsrOf svcFromUser.cpsr.mode = some (psrOfWord 0x10#32)
    ∧ modeOfBits (psrOfWord 0x10#32).m = some .usr
    ∧ svc.spsrOf svc.cpsr.mode = some Psr.zero ∧ modeOfBits Psr.zero.m = none := by decide +kernel

/-- OperandsThatAreRefused: each clause's operands, in the mode it speaks of. -/
theorem witness_OperandsThatAreRefused :
    condPassed .al svc.cpsr = true ∧ condPassed .al usr.cpsr = true ∧ usr.cpsr.mode = .usr
    ∧ (⟨.al, false, 0#4, 0#4, 15#4, .lsl, 0#4⟩ : DpRegShift).rs = 15#4
    ∧ (⟨.al, true, 14#4⟩ : MrsArgs).rd ≠ 15#4 ∧ (⟨.al, true, 15#4⟩ : MrsArgs).rd = 15#4
    ∧ (⟨.al, true, 14#4⟩ : MsrRegArgs).rm ≠ 15#4 ∧ (⟨.al, true, 15#4⟩ : MsrRegArgs).rm = 15#4
    ∧ (⟨.al, false, 1#4, 15#4, 2#4, 3#4⟩ : MulArgs).rn = 15#4 ∧ (⟨.al, 1#4, 2#4, 15#4⟩ : SwpArgs).rm = 15#4 := by
  decide +kernel

/-- ShiftByInstruction, ShiftByRegister: the amounts where their clauses meet. -/
theorem witness_shifts :
    (0#5 : BitVec 5) = 0#5 ∧ (31#5 : BitVec 5) ≠ 0#5 ∧ (0#8 : Byte) = 0#8 ∧ (255#8 : Byte) ≠ 0#8 := by decide

/-- MrsReadsThePsr: the CPSR in User mode and the SPSR of Supervisor mode. -/
theorem witness_MrsReadsThePsr :
    condPassed .al usr.cpsr = true ∧ (14#4 : RegNum) ≠ 15#4
    ∧ (if (⟨.al, false, 14#4⟩ : MrsArgs).spsr then usr.spsrOf usr.cpsr.mode else some (saveCpsr usr.cpsr))
      = some (saveCpsr usr.cpsr)
    ∧ (if (⟨.al, true, 14#4⟩ : MrsArgs).spsr then svcFromUser.spsrOf svcFromUser.cpsr.mode
      else some (saveCpsr svcFromUser.cpsr)) = some (psrOfWord 0x10#32) := by decide +kernel

/-- MsrWritesThePsr: a mode value that is valid, one that is not, User mode, and a flag write to an SPSR. -/
theorem witness_MsrWritesThePsr :
    condPassed .al svc.cpsr = true ∧ svc.cpsr.mode ≠ .usr ∧ usr.cpsr.mode = .usr
    ∧ modeOfBits ((0x11#32 : Word).extractLsb' 0 5) = some .fiq
    ∧ (state 0x30#32 0xD3#32 [(0, 0x11#32)] []).readReg .rm 0#4 8#32 = 0x11#32
    ∧ modeOfBits ((svc.readReg .rm 1#4 8#32).extractLsb' 0 5) = none
    ∧ svcFromUser.spsrOf svcFromUser.cpsr.mode = some (psrOfWord 0x10#32) := by decide +kernel

/-- MultiplyResult, MultiplyAccumulateResult. -/
theorem witness_multiply :
    let a : MulArgs := ⟨.al, true, 1#4, 14#4, 3#4, 2#4⟩
    let e : MulArgs := ⟨.al, true, 1#4, 14#4, 3#4, 1#4⟩
    condPassed a.cond svc.cpsr = true ∧ a.rd ≠ 15#4 ∧ a.rm ≠ 15#4 ∧ a.rs ≠ 15#4 ∧ a.rn ≠ 15#4 ∧ a.rd ≠ a.rm
    ∧ e.rd = e.rm ∧ e.rd ≠ 15#4 := by decide +kernel

/-- UserModeIsConfined: an instruction that stays in User mode and one that does not; NonStoringKeepMemory. -/
theorem witness_UserModeIsConfined :
    usr.cpsr.mode = .usr ∧ (∃ t, exec (.swi ⟨.al, 0#24⟩) usr = .next t)
    ∧ (∃ t, exec (.ldm ⟨.al, false, true, false, true, 1#4, 0x8001#16⟩) usr = .next t)
    ∧ instrStores (.ldm ⟨.al, false, true, false, true, 1#4, 0x8001#16⟩) = false ∧ usr.calm :=
  ⟨by decide +kernel, exists_next (by decide +kernel), exists_next (by decide +kernel), rfl, usr_flat.calm⟩

/-- StoresReachOnlyTheirWord: a translated store, one that translation stops, a misaligned one. -/
theorem witness_StoresReachOnlyTheirWord :
    let a : SdtImm := ⟨.al, true, true, false, 1#4, 0#4, 0#12⟩
    let s := mapped 0xAB000C1E#32
    let f := mapped 0#32
    let m : State := { svc with control := controlOfWord 0x32#32 }
    condPassed (instrCond (.strImm a)) s.cpsr = true
    ∧ (∃ t, exec (.strImm a) s = .next t) ∧ (∃ x u, s.translate (s.sdtAddrImm a).addr true = .done x u)
    ∧ (∃ t, exec (.strbImm a) f = .next t) ∧ (∃ x u, f.translate (f.sdtAddrImm a).addr true = .abort x u)
    ∧ (∃ t, exec (.strImm { a with offset := 1#12 }) m = .next t)
    ∧ m.misaligned (m.sdtAddrImm { a with offset := 1#12 }).addr = true ∧ s.calm ∧ f.calm ∧ m.calm :=
  ⟨by decide +kernel, exists_next (by decide +kernel), exists_done (by decide +kernel),
    exists_next (by decide +kernel), exists_abort (by decide +kernel), exists_next (by decide +kernel),
    by decide +kernel, calm_of_idle rfl, calm_of_idle rfl, calm_of_idle rfl⟩

/-- StoresReachOnlyTheirWord: a write that is done and one that aborts; swaps whose read is done and aborts; STM and
STC through a section. -/
theorem witness_StoresReachOnlyTheirWord_items :
    let s := mapped 0xAB000C1E#32
    let f := mapped 0#32
    let a : SwpArgs := ⟨.al, 1#4, 0#4, 2#4⟩
    let c : State := { s with coprocTape := [.accept 2 [1#32, 2#32]] }
    s.calm ∧ f.calm ∧ c.calm ∧ condPassed a.cond s.cpsr = true
    ∧ (∃ x u, s.memWrite 0x12345678#32 (.word 1#32) false false = .done x u)
    ∧ (∃ x u, f.memWrite 0x12345678#32 (.lane 1#2 1#8) false false = .abort x u)
    ∧ (∃ t, exec (.swp a) s = .next t) ∧ (∃ t, exec (.swpb a) s = .next t)
    ∧ (∃ w u, s.readWord (s.readReg .base 1#4 8#32) .swap = .done w u)
    ∧ (∃ w u, s.readByte (s.readReg .base 1#4 8#32) .swap = .done w u)
    ∧ (∃ t, exec (.swp a) f = .next t) ∧ (∃ t, exec (.swpb a) f = .next t)
    ∧ (∃ x u, f.readWord (f.readReg .base 1#4 8#32) .swap = .abort x u)
    ∧ (∃ x u, f.readByte (f.readReg .base 1#4 8#32) .swap = .abort x u)
    ∧ (∃ t, exec (.stm ⟨.al, false, true, false, true, 1#4, 0x8003#16⟩) s = .next t)
    ∧ (s.stmItems ⟨.al, false, true, false, true, 1#4, 0x8003#16⟩).length = 3
    ∧ (∃ t, exec (.stc ⟨.al, false, true, false, true, 1#4, 0#4, 14#4, 0#8⟩) c = .next t)
    ∧ (c.stcItems ⟨.al, false, true, false, true, 1#4, 0#4, 14#4, 0#8⟩).length = 2 :=
  ⟨calm_of_idle rfl, calm_of_idle rfl, calm_of_idle rfl, by decide +kernel,
    exists_done (by decide +kernel), exists_abort (by decide +kernel), exists_next (by decide +kernel),
    exists_next (by decide +kernel), exists_done (by decide +kernel), exists_done (by decide +kernel),
    exists_next (by decide +kernel), exists_next (by decide +kernel), exists_abort (by decide +kernel),
    exists_abort (by decide +kernel), exists_next (by decide +kernel), by decide +kernel,
    exists_next (by decide +kernel), by decide +kernel⟩

/-- LoadsComplete, StoresComplete: forms that are not refused (R15 as a base, post-indexing, write-back), and reads that
are done in the flat memory and through a section. -/
theorem witness_transfers :
    sdtRefusal true false 15#4 = none ∧ sdtRefusal false false 1#4 = none ∧ sdtRefusal true true 14#4 = none
    ∧ sdtRegRefusal false false 1#4 2#4 = none ∧ sdtRegRefusal true true 1#4 1#4 = none
    ∧ condPassed .al svc.cpsr = true ∧ svc.idcFind 0x1000#32 = none
    ∧ (∃ w u, (mapped 0xAB000C1E#32).readWord 0x12345678#32 .data = .done w u)
    ∧ (∃ b u, (mapped 0xAB000C1E#32).readByte 0x1234567B#32 .data = .done b u) :=
  ⟨by decide, by decide, by decide, by decide, by decide, by decide +kernel, by decide +kernel,
    exists_done (by decide +kernel), exists_done (by decide +kernel)⟩

/-- A swap's read is done and the write after it aborts. -/
def swapWriteAborts {α : Type} (x : Access α) (va : Word) (w : BusWrite) : Bool :=
  match x with
  | .done _ s' => isAbort (s'.memWrite va w true false)
  | .abort _ _ => false
  | .halt _ => false

theorem exists_swapWriteAborts {α : Type} {x : Access α} {va : Word} {w : BusWrite} (h : swapWriteAborts x va w = true) :
    ∃ v s' f u, x = .done v s' ∧ s'.memWrite va w true false = .abort f u := by
  unfold swapWriteAborts at h
  split at h
  · obtain ⟨f, u, hw⟩ := exists_abort h
    exact ⟨_, _, f, u, rfl, hw⟩
  · simp at h
  · simp at h

/-- AbortedTransfers: reads and writes that abort, and a swap whose read is done and whose write aborts. -/
theorem witness_AbortedTransfers :
    let ro := { mapped 0xAB00081E#32 with cpsr := usr.cpsr }
    condPassed .al aborting.cpsr = true ∧ (aborting.readReg .base 1#4 8#32 = 0x1000#32)
    ∧ (∃ f u, aborting.readWord 0x1000#32 .data = .abort f u)
    ∧ (∃ f u, aborting.readByte 0x1003#32 .data = .abort f u)
    ∧ (∃ f u, aborting.memWrite 0x1000#32 (.word (aborting.readReg .rd 2#4 12#32)) false false = .abort f u)
    ∧ (∃ f u, aborting.memWrite 0x1000#32 (aborting.byteWrite 0x1000#32 (aborting.readReg .rd 2#4 12#32)) false false
      = .abort f u)
    ∧ (∃ f u, aborting.readWord 0x1000#32 .swap = .abort f u)
    ∧ (∃ f u, aborting.readByte 0x1000#32 .swap = .abort f u)
    ∧ (∃ w s' f u, ro.readWord 0x12345678#32 .swap = .done w s'
      ∧ s'.memWrite 0x12345678#32 (.word (ro.readReg .rm 0#4 8#32)) true false = .abort f u)
    ∧ (∃ w s' f u, ro.readByte 0x12345678#32 .swap = .done w s'
      ∧ s'.memWrite 0x12345678#32 (ro.byteWrite 0x12345678#32 (ro.readReg .rm 0#4 8#32)) true false = .abort f u)
    ∧ ro.readReg .base 1#4 8#32 = 0x12345678#32 ∧ condPassed .al ro.cpsr = true ∧ aborting.calm :=
  ⟨by decide +kernel, by decide +kernel, exists_abort (by decide +kernel), exists_abort (by decide +kernel),
    exists_abort (by decide +kernel), exists_abort (by decide +kernel), exists_abort (by decide +kernel),
    exists_abort (by decide +kernel), exists_swapWriteAborts (by decide +kernel),
    exists_swapWriteAborts (by decide +kernel), by decide +kernel, by decide +kernel, calm_of_idle rfl⟩

/-- FlatAborts: an unaligned address with the alignment bit set, and one at each end of an aborting word. -/
theorem witness_FlatAborts :
    let s : State := { aborting with control := controlOfWord 0x32#32 }
    s.control.m = false ∧ s.control.c = false ∧ s.control.w = false ∧ s.writeBuffer = [] ∧ s.control.a = true
    ∧ laneBits 0x1003#32 ≠ 0#2 ∧ laneBits 0x1000#32 = 0#2 ∧ s.aborts 0x1000#32 = true ∧ s.aborts 0x1003#32 = true
    ∧ s.aborts 0x1004#32 = false ∧ aborting.control.a = false ∧ s.busAnswer.reset = false ∧ s.busAnswer.dma = []
    ∧ ({ svc with busTape := [⟨[], true, none, false⟩] } : State).busAnswer.abort = true
    ∧ (BusWrite.word 1#32).isWord = true := by decide +kernel

/-- TransferRefusals: one operand set for each clause. -/
theorem witness_TransferRefusals :
    condPassed .al svc.cpsr = true ∧ condPassed .al usr.cpsr = true
    ∧ sdtRefusal false false 15#4 = some .pcWriteBack ∧ sdtRefusal false true 0#4 = some .postIndexedW
    ∧ sdtRegRefusal true false 0#4 15#4 = some .pcOperand
    ∧ sdtRegRefusal false false 0#4 0#4 = some .postIndexSameRegister
    ∧ (0x7FFF#16 : BitVec 16).getLsbD 15 = false ∧ (0x8000#16 : BitVec 16).getLsbD 15 = true
    ∧ usr.cpsr.mode = .usr ∧ (14#4 : BitVec 4) ≠ 15#4 := by decide +kernel

/-- LdmCompletes: with and without S, the base in the list, R15 and S with each kind of SPSR. -/
theorem witness_LdmCompletes :
    bdtRefusal ⟨.al, false, true, false, true, 1#4, 0x8002#16⟩ true svc.privileged = none
    ∧ bdtRefusal ⟨.al, true, false, true, false, 1#4, 0x7FFF#16⟩ true usr.privileged = none
    ∧ condPassed .al svc.cpsr = true ∧ (0x7FFF#16 : BitVec 16).getLsbD 15 = false
    ∧ (0xFFFF#16 : BitVec 16).getLsbD 15 = true
    ∧ svcFromUser.spsrOf svcFromUser.cpsr.mode = some (psrOfWord 0x10#32)
    ∧ modeOfBits (psrOfWord 0x10#32).m = some .usr
    ∧ svc.spsrOf svc.cpsr.mode = some Psr.zero ∧ modeOfBits Psr.zero.m = none := by decide +kernel

/-- StmCompletes, SwapsComplete: the base first and not first in the list, R15, the User bank; a cache with no line. -/
theorem witness_StmCompletes :
    svc.idc = Vector.replicate 256 none
    ∧ bdtRefusal ⟨.al, false, true, false, true, 1#4, 0x8002#16⟩ false svc.privileged = none
    ∧ bdtRefusal ⟨.al, true, false, true, false, 1#4, 0xFFFF#16⟩ false svc.privileged = none
    ∧ condPassed .al svc.cpsr = true ∧ listRank 0x8002#16 1#4 = 0 ∧ listRank 0x8003#16 1#4 ≠ 0
    ∧ svc.hazardous 13#4 = false ∧ (⟨.al, true, false, true, false, 1#4, 0xFFFF#16⟩ : Bdt).s = true
    ∧ svc.idcFind 0x1000#32 = none ∧ (14#4 : RegNum) ≠ 15#4 := ⟨rfl, by decide +kernel⟩

/-- AbortedBlocks: the second slot aborts and the first does not. -/
theorem witness_AbortedBlocks :
    let s : State := { svc with abortRanges := [(0x1004, 0x1008)] }
    let a : Bdt := ⟨.al, false, true, false, true, 1#4, 0x000C#16⟩
    Flat { s with abortRanges := [] } ∧ condPassed a.cond s.cpsr = true ∧ a.list.getLsbD 3 = true
    ∧ s.aborts (slotAddr (s.bdtSpan a).1 a.list 3#4) = true
    ∧ (∀ q : RegNum, q.toNat < 3 → a.list.getLsbD q.toNat = true →
      s.aborts (slotAddr (s.bdtSpan a).1 a.list q) = false)
    ∧ bdtRefusal a true s.privileged = none ∧ bdtRefusal a false s.privileged = none
    ∧ phys s.cpsr.mode a.rn ≠ 27 :=
  ⟨⟨rfl, rfl, rfl, rfl, rfl, rfl, rfl⟩, by decide +kernel, by decide, by decide +kernel, by decide +kernel, by decide +kernel,
    by decide +kernel, by decide +kernel⟩

/-- Branches at the top of the address space, SoftwareInterrupt, UndefinedInstruction, ExceptionEntry, EntryThenReturn. -/
theorem witness_exceptions :
    laneBits ({ svc with pc := 0xFFFFFFFC#32 } : State).pc = 0#2 ∧ condPassed .al svc.cpsr = true
    ∧ laneBits usr.pc = 0#2 ∧ Mode.fiq ≠ .usr ∧ usr.enterSwi.hazard ≠ 1 ∧ usr.enterFiq.hazard ≠ 1
    ∧ (usr.dataAbort .alignment 0x1001#32).hazard ≠ 1
    ∧ (0xE6000010#32 : Word).extractLsb' 25 3 = 0b011#3 ∧ (0xE6000010#32 : Word).getLsbD 4 = true := by decide +kernel

/-- CoprocessorsThatDoNotAccept, CoprocessorOperations, CoprocessorTransfersComplete: absent, refusing, busy and
accepting; the number of words at its edges. -/
theorem witness_coprocessors :
    let refusing : State := { svc with coprocTape := [.refuse, .busy] }
    let busy : State := { svc with coprocTape := [.busy] }
    let accepting : State := { svc with coprocTape := [.accept 0 []] }
    accepting.idc = Vector.replicate 256 none
    ∧ svc.coprocTape = [] ∧ refusing.coprocTape.head? = some .refuse ∧ busy.coprocTape = .busy :: []
    ∧ accepting.coprocTape = .accept 0 [] :: [] ∧ condPassed .al accepting.cpsr = true ∧ (14#4 : BitVec 4) ≠ 15#4
    ∧ 2 ^ 30 - 1 < 2 ^ 30
    ∧ aborting.aborts (aborting.cdtAddr ⟨.al, false, true, false, true, 1#4, 0#4, 14#4, 1#8⟩).addr = true :=
  ⟨rfl, by decide +kernel⟩

/-- CoprocessorsThatDoNotAccept: a coprocessor that is never ready, and the instruction that waits for it. -/
theorem witness_never_ready :
    let i : Instr := .cdp ⟨.al, 10#4, 2#4, 1#4, 1#4, 0#3, 3#4⟩
    let s : State := { svc with coprocTape := [.neverReady], waiting := some (encode i) }
    s.coprocTape.head? = some .neverReady ∧ condPassed (instrCond i) s.cpsr = true ∧ decodeWord (encode i) = .ok i
    ∧ s.writeBuffer = [] ∧ s.nextInputs.reset = false ∧ s.nextInputs.fiq = false ∧ s.nextInputs.irq = false := by
  decide +kernel

/-- CoprocessorTransfersComplete: the flat memory of its three parts. -/
theorem witness_coprocessor_memory :
    Flat { svc with coprocTape := [.accept 2 [1#32, 2#32]] }
    ∧ Flat { { aborting with coprocTape := [.accept 2 [1#32]] } with abortRanges := [] } :=
  ⟨⟨rfl, rfl, rfl, rfl, rfl, rfl, rfl⟩, ⟨rfl, rfl, rfl, rfl, rfl, rfl, rfl⟩⟩

/-- SystemCoprocessorTraps and the statements on coprocessor 15: both modes, register numbers 7 and 8, and data with
each of the bits that select a clause. -/
theorem witness_system_coprocessor :
    condPassed .al svc.cpsr = true ∧ condPassed .al usr.cpsr = true ∧ usr.cpsr.mode = .usr ∧ svc.cpsr.mode ≠ .usr
    ∧ 8 ≤ (8#4 : BitVec 4).toNat ∧ (7#4 : BitVec 4).toNat < 8
    ∧ (⟨.al, 0#3, 4#4, 0#4, 15#4, 0#3, 0#4⟩ : Crt).crn = 4#4 ∧ svc.cfg26 = .same
    ∧ ({ svc with cfg26 := .refuse } : State).cfg26 = .refuse ∧ condPassed (instrCond (.mrcId ⟨.al, 0#3, 15#4, 0#3, 0#4⟩)) svc.cpsr = true
    ∧ ((svc.readReg .rd 1#4 12#32).getLsbD 0 = false ∧ (svc.readReg .rd 1#4 12#32).getLsbD 2 = false
      ∧ (svc.readReg .rd 1#4 12#32).getLsbD 3 = false)
    ∧ ((svc.readReg .rd 2#4 12#32).getLsbD 0 = false ∧ (svc.readReg .rd 2#4 12#32).getLsbD 3 = true)
    ∧ (state 0x30#32 0xD3#32 [(0, 0x3D#32)] []).readReg .rd 0#4 12#32 = 0x3D#32 := by decide +kernel

/-- SystemCoprocessorOperations, SectionTranslation: a TLB with an entry that covers the address and one that does not. -/
theorem witness_tlb :
    let e : TlbEntry := ⟨.sect 0x123#12 0xAB0#12 3#2, 0#4, false, false, true⟩
    let s : State := { mapped 0xAB000C1E#32 with tlb := (Vector.replicate 32 none).set 0 (some e) }
    s.tlb[0] = some e ∧ e.covers (s.readReg .rd 1#4 12#32) = true ∧ e.covers 0x12400000#32 = false
    ∧ s.tlb[31] = none ∧ s.cpsr.mode ≠ .usr ∧ s.control.m = true ∧ s.tlbHits 0x12345678#32 = [e] := by decide +kernel

/-- SectionTranslation: the MMU off and on, each type of descriptor and each value of a domain's field. -/
theorem witness_SectionTranslation :
    svc.control.m = false ∧ (mapped 0xAB000C1E#32).control.m = true
    ∧ (mapped 0xAB000C1E#32).tlbHits 0x12345678#32 = [] ∧ (mapped 0xAB000C1E#32).writeBuffer = []
    ∧ (mapped 0xAB000C1E#32).abortRanges = [] ∧ (mapped 0xAB000C1E#32).busTape = []
    ∧ Memory.readWord (mapped 0xAB000C1E#32).mem 0x448C#32 = 0xAB000C1E#32
    ∧ (0xAB000C1E#32 : Word).extractLsb' 0 2 = 2#2 ∧ (0xFFFFFFFF#32 : Word).extractLsb' 0 2 = 3#2
    ∧ (0#32 : Word).extractLsb' 0 2 = 0#2
    ∧ (mapped 0#32).dacr.extractLsb' 0 2 = 1#2 ∧ (0xC#32 : Word).extractLsb' 2 2 = 3#2
    ∧ (0x2#32 : Word).extractLsb' 0 2 = 2#2 := by decide +kernel

/-- PageTranslation: a page table descriptor and level two descriptors of each type. -/
theorem witness_PageTranslation :
    let s := mapped 0x8401#32
    s.control.m = true ∧ s.tlbHits 0x12345678#32 = [] ∧ s.writeBuffer = [] ∧ s.abortRanges = [] ∧ s.busTape = []
    ∧ (Memory.readWord s.mem 0x448C#32).extractLsb' 0 2 = 1#2
    ∧ (Memory.readWord (Memory.writeWord s.mem 0x8514#32 0xCD012FFE#32) 0x8514#32).extractLsb' 0 2 = 2#2
    ∧ (Memory.readWord (Memory.writeWord s.mem 0x8514#32 0xEF010FFD#32) 0x8514#32).extractLsb' 0 2 = 1#2
    ∧ (Memory.readWord s.mem 0x8514#32).extractLsb' 0 2 = 0#2
    ∧ s.dacr.extractLsb' 0 2 = 1#2 := by decide +kernel

/-- SectionTranslation, PageTranslation: an abort on the level one and on the level two fetch, by the address and by the
tape. -/
theorem witness_walk_aborts :
    let s : State := { mapped 0x8401#32 with abortRanges := [(0x448C, 0x4490)] }
    let t : State := { mapped 0x8401#32 with busTape := [⟨[], true, none, false⟩] }
    let p : State := { mapped 0x8401#32 with abortRanges := [(0x8514, 0x8518)] }
    let q : State := { mapped 0x8401#32 with busTape := [BusAnswer.idle, ⟨[], true, none, false⟩] }
    s.control.m = true ∧ s.tlbHits 0x12345678#32 = [] ∧ s.writeBuffer = [] ∧ s.busAnswer.reset = false
    ∧ s.aborts 0x448C#32 = true ∧ t.busAnswer.abort = true
    ∧ p.aborts 0x448C#32 = false ∧ p.busAnswer.abort = false ∧ p.aborts 0x8514#32 = true
    ∧ (p.busAnswer.data.getD (Memory.readWord p.mem 0x448C#32)).extractLsb' 0 2 = 1#2
    ∧ q.busAnswer.abort = false ∧ ({ q with busTape := q.busTape.tail } : State).busAnswer.abort = true
    ∧ ({ q with busTape := q.busTape.tail } : State).busAnswer.reset = false := by decide +kernel

/-- BufferedWrites: an empty buffer and one with entries; a translated bufferable write, and one of a swap; an external
read and write; and a buffered write for which ABORT is raised, by its address and by the tape. -/
theorem witness_BufferedWrites :
    let s : State := { svc with writeBuffer := [⟨0x1000#32, .word 1#32, false⟩, ⟨0x1004#32, .word 2#32, true⟩] }
    let b := mapped 0xAB000C1E#32
    let r : State := { s with abortRanges := [(0x1000, 0x1004)] }
    let q : State := { s with busTape := [⟨[], true, none, false⟩] }
    s.writeBuffer.length ≤ 8 ∧ wbRuns s.writeBuffer ≤ 2 ∧ s.calm
    ∧ (∃ a u, s.bufferWrite 0x1008#32 (.lane 3#2 7#8) true = .done a u)
    ∧ (∃ a u, s.busRead 0x1004#32 .externalFlat = .done a u)
    ∧ (∃ a u, s.busWrite 0x1004#32 (.word 1#32) true .externalFlat = .done a u)
    ∧ (∃ a u, b.translate 0x12345678#32 true = .done a u) ∧ b.misaligned 0x12345678#32 = false
    ∧ r.busAnswer.reset = false ∧ r.aborts 0x1000#32 = true ∧ q.busAnswer.reset = false ∧ q.busAnswer.abort = true :=
  ⟨by decide +kernel, by decide +kernel, calm_of_idle rfl, exists_done (by decide +kernel),
    exists_done (by decide +kernel), exists_done (by decide +kernel), exists_done (by decide +kernel), by decide +kernel,
    by decide +kernel, by decide +kernel, by decide +kernel, by decide +kernel⟩

/-- CacheReadsAndWrites: a held line, a linefetch, an external read, both values of U, and an abort on each kind of word
of a line. -/
theorem witness_CacheReadsAndWrites :
    let l : IdcLine := ⟨0x0000100#28, #v[1#32, 2#32, 3#32, 4#32]⟩
    let s : State := { svc with idc := (Vector.replicate 256 none).set 255 (some l) }
    let on : Attr := ⟨true, true, true, some (false, 0#4)⟩
    let tape : State := { svc with busTape := [BusAnswer.idle, ⟨[], true, none, false⟩] }
    s.idcFind 0x1008#32 = some l ∧ svc.idcFind 0x1008#32 = none ∧ svc.calm
    ∧ (∃ w u, svc.cachedRead 0x1008#32 ⟨0x1008#32, on⟩ = .done w u)
    ∧ (∃ t u, (mapped 0xAB000C1E#32).translate 0x12345678#32 false = .done t u)
    ∧ (∃ w u, svc.busRead 0x1008#32 .externalFlat = .done w u)
    ∧ on.entry.isSome = true ∧ on.u = true ∧ s.idc[(255 : Fin 256)] = some l ∧ s.idc[(0 : Fin 256)] = none
    ∧ l.tag = (0x1008#32 : Word).extractLsb' 4 28 ∧ l.tag ≠ (0x2008#32 : Word).extractLsb' 4 28
    ∧ aborting.writeBuffer = [] ∧ aborting.idcFind 0x1008#32 = none ∧ aborting.aborts 0x1000#32 = true ∧ aborting.calm
    ∧ tape.aborts 0x1000#32 = false ∧ (tape.busTape.getD 0 BusAnswer.idle).abort = false
    ∧ (tape.busTape.getD 1 BusAnswer.idle).abort = true ∧ tape.calm :=
  ⟨by decide +kernel, by decide +kernel, calm_of_idle rfl, exists_done (by decide +kernel),
    exists_done (by decide +kernel), exists_done (by decide +kernel), rfl, rfl, by decide +kernel, by decide +kernel, by decide, by decide,
    rfl, by decide +kernel, by decide +kernel, calm_of_idle rfl, by decide +kernel, rfl, rfl, by
      intro x h; simp only [List.mem_cons, List.not_mem_nil, or_false] at h; rcases h with rfl | rfl <;> decide⟩

/-- InvariantKept: a state other than reset with the invariant, and a step of it that answers a next state. -/
theorem witness_InvariantKept :
    Inv (svc.withFetchWord 32 0xE0010392) ∧ ∃ t, step (svc.withFetchWord 32 0xE0010392) = .next t :=
  ⟨⟨by decide +kernel, by decide +kernel, by decide +kernel, by decide +kernel, by decide +kernel, by decide +kernel,
    by decide +kernel⟩, exists_next (by decide +kernel)⟩

end Sys2Proof.Tests
end

section
/-! The invariant of the model: what each named update does to it, then each access, each instruction, the fetch and
the step. -/

namespace Sys2Proof.Machine

/-! ### The invariant and the updates of the state -/

/-- The part of the invariant that memory accesses can touch. -/
theorem Inv.memOk {s : State} (h : Inv s) : MemOk s := ⟨h.memory, h.bufferWords, h.bufferRuns⟩

/-- A memory access keeps the invariant: its frame holds the other fields. -/
theorem Inv.kept {s t : State} (h : Inv s) (k : Kept s t) : Inv t where
  memory := (k.ok h.memOk).memory
  pcAligned := k.frame.pc ▸ h.pcAligned
  prefetched := k.frame.prefetch ▸ h.prefetched
  bufferWords := (k.ok h.memOk).words
  bufferRuns := (k.ok h.memOk).runs
  combination := k.frame.control ▸ h.combination
  hazardRange := k.frame.hazard ▸ h.hazardRange

/-- Only memory and the write buffer are replaced, by ones that are in order. -/
theorem Inv.withMemory {s : State} (h : Inv s) {m : Memory} {b : List WbEntry} (d : Nat) (hm : Memory.wf m = true)
    (hw : b.length ≤ 8) (hr : wbRuns b ≤ 2) : Inv { s with mem := m, writeBuffer := b, draws := d } :=
  { h with memory := hm, bufferWords := hw, bufferRuns := hr }

theorem Inv.setReg {s : State} (h : Inv s) (r : RegNum) (v : Word) : Inv (s.setReg r v) := { h with }

theorem Inv.setRegIn {s : State} (h : Inv s) (m : Mode) (r : RegNum) (v : Word) : Inv (s.setRegIn m r v) := { h with }

theorem Inv.setCpsr {s : State} (h : Inv s) (c : Cpsr) : Inv { s with cpsr := c } := { h with }

theorem Inv.setSpsr {s : State} (h : Inv s) (m : Mode) (p : Psr) : Inv (s.setSpsr m p) := by
  cases m <;> exact { h with }

theorem Inv.bump {s : State} (h : Inv s) : Inv s.bump := { h with }

theorem Inv.recordFault {s : State} (h : Inv s) (f : MemFault) (va : Word) : Inv (s.recordFault f va) := { h with }

theorem Inv.popInputs {s : State} (h : Inv s) : Inv s.popInputs := { h with }

theorem Inv.popAnswer {s : State} (h : Inv s) : Inv s.popAnswer := { h with }

theorem Inv.sendCoproc {s : State} (h : Inv s) (w : Word) (sent : List Word) : Inv (s.sendCoproc w sent) := { h with }

theorem Inv.sendWord {s : State} (h : Inv s) (w : Word) : Inv (s.sendWord w) := by
  unfold State.sendWord
  split
  · exact h
  · exact { h with }

theorem Inv.busyWait {s : State} (h : Inv s) (w : Word) : Inv (s.busyWait w) := { h with }

theorem Inv.notWaiting {s : State} (h : Inv s) : Inv { s with waiting := none } := { h with }

theorem Inv.tlbFlush {s : State} (h : Inv s) : Inv s.tlbFlush := { h with }

theorem Inv.tlbPurge {s : State} (h : Inv s) (va : Word) : Inv (s.tlbPurge va) := { h with }

theorem Inv.idcFlush {s : State} (h : Inv s) : Inv s.idcFlush := { h with }

theorem Inv.setTtb {s : State} (h : Inv s) (v : BitVec 18) : Inv { s with ttb := v } := { h with }

theorem Inv.setDacr {s : State} (h : Inv s) (v : Word) : Inv { s with dacr := v } := { h with }

/-- A control register write keeps the invariant where its combination is valid (R139). -/
theorem Inv.setControl {s : State} (h : Inv s) {c : Control} (hc : c.invalid = false) : Inv { s with control := c } :=
  { h with combination := hc }

/-- The fetches of one instruction leave two words prefetched (R75). -/
theorem Inv.setPrefetch {s : State} (h : Inv s) (f1 f2 : Fetched) : Inv { s with prefetch := [f1, f2] } :=
  { h with prefetched := Nat.le_refl 2 }

theorem Inv.advance {s : State} (h : Inv s) : Inv s.advance := { h with pcAligned := laneBits_add_four h.pcAligned }

theorem Inv.branchTo {s : State} (h : Inv s) (v : Word) : Inv (s.branchTo v) :=
  { h with pcAligned := laneBits_wordAddr v, prefetched := Nat.zero_le 2 }

theorem Inv.writeRd {s : State} (h : Inv s) (r : RegNum) (v : Word) : Inv (s.writeRd r v) := by
  unfold State.writeRd
  split
  · exact h.branchTo v
  · exact (h.setReg r v).advance

theorem Inv.mrcWrite {s : State} (h : Inv s) (r : RegNum) (v : Word) : Inv (s.mrcWrite r v) := by
  unfold State.mrcWrite
  split
  · exact (h.setCpsr _).advance
  · exact (h.setReg r v).advance

theorem Inv.writeBack {s : State} (h : Inv s) (rn : RegNum) (t : TransferAddr) : Inv (s.writeBack rn t) := by
  unfold State.writeBack
  split
  · exact h.setReg rn _
  · exact h

theorem Inv.abortedBase {s : State} (h : Inv s) (rn : RegNum) (t : TransferAddr) : Inv (s.abortedBase rn t) := by
  unfold State.abortedBase
  split
  · exact h.writeBack rn t
  · exact h

theorem Inv.blockWriteBack {s : State} (h : Inv s) (wb : Option (RegNum × Word)) : Inv (s.blockWriteBack wb) := by
  cases wb with
  | none => exact h
  | some p => exact h.setReg p.1 p.2

theorem Inv.startHazard {s : State} (h : Inv s) (user : Bool) : Inv (s.startHazard user) := by
  unfold State.startHazard
  split
  · exact { h with hazardRange := Nat.le_refl 2 }
  · exact h

/-- Every exception vector is a multiple of 4 (R511), so entering an exception keeps the invariant. -/
theorem Inv.enter {s : State} (h : Inv s) (m : Mode) {vector : Word} (ret : Word) (setF : Bool)
    (hv : laneBits vector = 0#2) : Inv (s.enter m vector ret setF) := by
  have saved : Inv ((s.setRegIn m 14#4 ret).setSpsr m (saveCpsr s.cpsr)) := (h.setRegIn m 14#4 ret).setSpsr m _
  exact { saved with pcAligned := hv, prefetched := Nat.zero_le 2 }

theorem Inv.enterUndefined {s : State} (h : Inv s) : Inv s.enterUndefined := h.enter _ _ _ (by decide)

theorem Inv.enterSwi {s : State} (h : Inv s) : Inv s.enterSwi := h.enter _ _ _ (by decide)

theorem Inv.enterPrefetchAbort {s : State} (h : Inv s) : Inv s.enterPrefetchAbort := h.enter _ _ _ (by decide)

theorem Inv.enterIrq {s : State} (h : Inv s) : Inv s.enterIrq := h.enter _ _ _ (by decide)

theorem Inv.enterFiq {s : State} (h : Inv s) : Inv s.enterFiq := h.enter _ _ _ (by decide)

theorem Inv.dataAbort {s : State} (h : Inv s) (f : MemFault) (va : Word) : Inv (s.dataAbort f va) :=
  (h.recordFault f va).enter _ _ _ (by decide)

theorem Inv.afterInstruction {s : State} (h : Inv s) : Inv s.afterInstruction := by
  have hz : s.afterInstruction.hazard ≤ 2 := by
    have := h.hazardRange
    unfold State.afterInstruction
    dsimp only
    split <;> omega
  exact { h with hazardRange := hz }

/-! ### Reset -/

/-- A reset leaves of the invariant only the form of memory to what was before it (R570). -/
theorem inv_warmReset {s : State} (h : Memory.wf s.mem = true) : Inv s.warmReset where
  memory := by simpa using h
  pcAligned := by rw [State.warmReset_pc]; decide
  prefetched := by simp
  bufferWords := by simp
  bufferRuns := by simp [wbRuns]
  combination := by rw [State.warmReset_control]; decide
  hazardRange := by simp

theorem wf_resetDrain (n k : Nat) {s : State} (h : Memory.wf s.mem = true) :
    Memory.wf (s.resetDrain n k).mem = true := by
  induction n generalizing k s with
  | zero => exact h
  | succ n ih =>
    unfold State.resetDrain
    split
    · exact h
    · refine ih _ ?_
      dsimp only
      split
      · exact h
      · exact BusWrite.wf_onMemory _ _ h

theorem Inv.boundaryReset {s : State} (h : Inv s) : Inv s.boundaryReset := inv_warmReset (wf_resetDrain _ _ h.memory)

/-! ### Outcomes and accesses -/

/-- The outcome's next state, where it has one, has the invariant. -/
def KeepsInv (r : Result) : Prop := ∀ t, r = .next t → Inv t

theorem Inv.next {t : State} (h : Inv t) : KeepsInv (.next t) := by
  rintro _ ⟨⟩
  exact h

theorem keepsInv_refused (r : Refusal) : KeepsInv (.refused r) := by
  intro t e
  cases e

/-- The states that an access can end in, done, aborted or by a reset, have the invariant. -/
def Access.KeepsInv {α : Type} : Access α → Prop
  | .done _ t => Inv t
  | .abort _ t => Inv t
  | .halt r => Machine.KeepsInv r

theorem Access.KeepsInv.done {α : Type} {x : Access α} {a : α} {t : State} (h : x.KeepsInv) (e : x = .done a t) :
    Inv t := by subst e; exact h

theorem Access.KeepsInv.abort {α : Type} {x : Access α} {f : MemFault} {t : State} (h : x.KeepsInv)
    (e : x = .abort f t) : Inv t := by subst e; exact h

theorem Access.KeepsInv.halt {α : Type} {x : Access α} {r : Result} (h : x.KeepsInv) (e : x = .halt r) :
    Machine.KeepsInv r := by subst e; exact h

theorem Access.KeepsInv.andThen {α β : Type} {x : Access α} {k : α → State → Access β} (h : x.KeepsInv)
    (hk : ∀ a t, Inv t → (k a t).KeepsInv) : (x.andThen k).KeepsInv := by
  cases x with
  | done a t => exact hk a t h
  | abort f t => exact h
  | halt r => exact h

/-- Every access of the memory system keeps the invariant; a reset that falls inside it does so by itself. -/
theorem Inv.access {α : Type} {s : State} {x : Access α} (h : Inv s) (o : x.Obeys Kept s) : x.KeepsInv := by
  match x, o with
  | .done _ t, k => exact h.kept k
  | .abort _ t, k => exact h.kept k
  | .halt (.next t), ⟨_, u, k, e⟩ => exact (e ▸ inv_warmReset (h.kept k).memory : Inv t).next
  | .halt (.refused r), _ => exact keepsInv_refused r

theorem Inv.read {α : Type} {s : State} {x : Access α} (h : Inv s) (o : x.Obeys ReadKept s) : x.KeepsInv :=
  h.access (o.imp fun _ k => k.toKept)

theorem Inv.readWord {s : State} (h : Inv s) (va : Word) (kind : ReadKind) : (s.readWord va kind).KeepsInv :=
  h.read (readWord_obeys s va kind)

theorem Inv.readByte {s : State} (h : Inv s) (va : Word) (kind : ReadKind) : (s.readByte va kind).KeepsInv :=
  h.read (readByte_obeys s va kind)

theorem Inv.memWrite {s : State} (h : Inv s) (va : Word) (w : BusWrite) (swap seq : Bool) :
    (s.memWrite va w swap seq).KeepsInv :=
  h.access (memWrite_obeys s va w swap seq)

/-! ### The wrappers of an instruction -/

theorem Inv.whenPassed {s : State} (h : Inv s) {c : Cond} {k : Result} (hk : KeepsInv k) :
    KeepsInv (whenPassed c s k) := by
  unfold Machine.whenPassed
  split
  · exact hk
  · exact h.advance.next

theorem keepsInv_unlessRefused {r : Option Refusal} {k : Result} (hk : r = none → KeepsInv k) :
    KeepsInv (unlessRefused r k) := by
  cases r with
  | none => exact hk rfl
  | some r => exact keepsInv_refused r

theorem Inv.whenPrivileged {s : State} (h : Inv s) {k : Result} (hk : KeepsInv k) : KeepsInv (s.whenPrivileged k) := by
  unfold State.whenPrivileged
  split
  · exact hk
  · exact h.enterUndefined.next

/-- Coprocessor 15 refuses CDP, LDC and STC (R485). -/
theorem Inv.unlessCp15 {s : State} (h : Inv s) {cp : BitVec 4} {k : Result} (hk : KeepsInv k) :
    KeepsInv (if cp = 15#4 then .next s.enterUndefined else k) := by
  split
  · exact h.enterUndefined.next
  · exact hk

/-! ### Data processing, status registers and multiply -/

theorem Inv.restoreCpsr {s : State} (h : Inv s) : KeepsInv s.restoreCpsr := by
  unfold State.restoreCpsr
  split
  · exact keepsInv_refused _
  · split
    · exact keepsInv_refused _
    · exact (h.setCpsr _).next

theorem Inv.returnTo {s : State} (h : Inv s) (v : Word) : KeepsInv (s.returnTo v) := (h.branchTo v).restoreCpsr

theorem Inv.dpWrite {s : State} (h : Inv s) (sBit : Bool) (rd : RegNum) (v : Word) (flags : Cpsr) :
    KeepsInv (s.dpWrite sBit rd v flags) := by
  unfold State.dpWrite
  split
  · split
    · exact h.returnTo v
    · exact (h.branchTo v).next
  · exact ((h.setReg rd v).setCpsr _).advance.next

theorem Inv.dpTest {s : State} (h : Inv s) (rd : RegNum) (flags : Cpsr) : KeepsInv (s.dpTest rd flags) := by
  unfold State.dpTest
  split
  · split
    · exact h.advance.restoreCpsr
    · exact h.advance.next
  · exact (h.setCpsr flags).advance.next

theorem Inv.writeProduct {s : State} (h : Inv s) (sBit : Bool) (rd : RegNum) (v : Word) (flags : Cpsr) :
    KeepsInv (s.writeProduct sBit rd v flags) := ((h.setReg rd v).setCpsr _).advance.next

theorem Inv.writeSpsr {s : State} (h : Inv s) (p : Psr → Psr) : KeepsInv (s.writeSpsr p) := by
  unfold State.writeSpsr
  split
  · exact keepsInv_refused _
  · exact (h.setSpsr _ _).advance.next

theorem Inv.writePsrFlags {s : State} (h : Inv s) (spsr : Bool) (w : Word) : KeepsInv (s.writePsrFlags spsr w) := by
  unfold State.writePsrFlags
  split
  · exact h.writeSpsr _
  · exact (h.setCpsr _).advance.next

theorem Inv.execMrs {s : State} (h : Inv s) (a : MrsArgs) : KeepsInv (execMrs a s) := by
  refine h.whenPassed (keepsInv_unlessRefused fun _ => ?_)
  split
  · exact keepsInv_refused _
  · exact (h.setReg _ _).advance.next

theorem Inv.execMsr {s : State} (h : Inv s) (a : MsrRegArgs) : KeepsInv (execMsr a s) := by
  refine h.whenPassed (keepsInv_unlessRefused fun _ => ?_)
  dsimp only
  split
  · exact h.writeSpsr _
  · split
    · split
      · exact keepsInv_refused _
      · exact (h.setCpsr _).advance.next
    · exact (h.setCpsr _).advance.next

theorem Inv.execMla {s : State} (h : Inv s) (a : MulArgs) : KeepsInv (execMla a s) := by
  refine h.whenPassed (keepsInv_unlessRefused fun _ => ?_)
  split
  · exact h.writeProduct _ _ _ _
  · exact h.writeProduct _ _ _ _

/-! ### Single data transfer and swap -/

theorem Inv.loadWord {s : State} (h : Inv s) (rn rd : RegNum) (t : TransferAddr) : KeepsInv (s.loadWord rn rd t) := by
  have access := h.readWord t.addr .data
  unfold State.loadWord
  split
  case h_1 e => exact (((access.done e).writeBack rn t).writeRd rd _).next
  case h_2 e => exact (((access.abort e).abortedBase rn t).dataAbort _ _).next
  case h_3 e => exact access.halt e

theorem Inv.loadByte {s : State} (h : Inv s) (rn rd : RegNum) (t : TransferAddr) : KeepsInv (s.loadByte rn rd t) := by
  have access := h.readByte t.addr .data
  unfold State.loadByte
  split
  case h_1 e => exact (((access.done e).writeBack rn t).writeRd rd _).next
  case h_2 e => exact (((access.abort e).abortedBase rn t).dataAbort _ _).next
  case h_3 e => exact access.halt e

theorem Inv.storeBus {s : State} (h : Inv s) (rn : RegNum) (t : TransferAddr) (w : BusWrite) :
    KeepsInv (s.storeBus rn t w) := by
  have access := h.memWrite t.addr w false false
  unfold State.storeBus
  split
  case h_1 e => exact ((access.done e).writeBack rn t).advance.next
  case h_2 e => exact (((access.abort e).abortedBase rn t).dataAbort _ _).next
  case h_3 e => exact access.halt e

theorem Inv.swapWrite {s : State} (h : Inv s) (rd : RegNum) (addr : Word) (w : BusWrite) (loaded : Word) :
    KeepsInv (s.swapWrite rd addr w loaded) := by
  have access := h.memWrite addr w true false
  unfold State.swapWrite
  split
  case h_1 e => exact ((access.done e).setReg rd loaded).advance.next
  case h_2 e => exact ((access.abort e).dataAbort _ _).next
  case h_3 e => exact access.halt e

theorem Inv.execSwp {s : State} (h : Inv s) (a : SwpArgs) : KeepsInv (execSwp a s) := by
  refine h.whenPassed (keepsInv_unlessRefused fun _ => ?_)
  have access := h.readWord (s.readReg .base a.rn 8#32) .swap
  dsimp only
  split
  case h_1 e => exact (access.done e).swapWrite _ _ _ _
  case h_2 e => exact ((access.abort e).dataAbort _ _).next
  case h_3 e => exact access.halt e

theorem Inv.execSwpb {s : State} (h : Inv s) (a : SwpArgs) : KeepsInv (execSwpb a s) := by
  refine h.whenPassed (keepsInv_unlessRefused fun _ => ?_)
  have access := h.readByte (s.readReg .base a.rn 8#32) .swap
  dsimp only
  split
  case h_1 e => exact (access.done e).swapWrite _ _ _ _
  case h_2 e => exact ((access.abort e).dataAbort _ _).next
  case h_3 e => exact access.halt e

/-! ### Block data transfer -/

/-- The state that a run of transfers leaves, or that a reset inside it gives, has the invariant. -/
def BlockOut.KeepsInv : BlockOut → Prop
  | .done _ _ s => Inv s
  | .halt r => Machine.KeepsInv r

theorem BlockOut.KeepsInv.done {x : BlockOut} {w : Word} {f : Option (MemFault × Word)} {t : State} (h : x.KeepsInv)
    (e : x = .done w f t) : Inv t := by subst e; exact h

theorem BlockOut.KeepsInv.halt {x : BlockOut} {r : Result} (h : x.KeepsInv) (e : x = .halt r) :
    Machine.KeepsInv r := by subst e; exact h

theorem ldmTransfers_keepsInv (user : Bool) (list : List RegNum) (addr newPc : Word) (first : Option (MemFault × Word))
    {s : State} (h : Inv s) : (ldmTransfers user list addr newPc first s).KeepsInv := by
  induction list generalizing addr newPc first s with
  | nil => exact h
  | cons r rest ih =>
    have access := h.readWord addr .data
    unfold ldmTransfers
    split
    case h_1 e =>
      have loaded := access.done e
      split
      · exact ih _ _ _ loaded
      · split
        · exact ih _ _ _ loaded
        · exact ih _ _ _ (loaded.setRegIn _ r _)
    case h_2 e => exact ih _ _ _ (access.abort e)
    case h_3 e => exact access.halt e

theorem stmTransfers_keepsInv (user : Bool) (wb : Option (RegNum × Word)) (list : List RegNum) (addr : Word) (seq : Bool)
    (first : Option (MemFault × Word)) {s : State} (h : Inv s) :
    (stmTransfers user wb list addr seq first s).KeepsInv := by
  induction list generalizing wb addr seq first s with
  | nil => exact h
  | cons r rest ih =>
    have access (w : BusWrite) := h.memWrite addr w false seq
    unfold stmTransfers
    dsimp only
    split
    case h_1 e => exact ih _ _ _ _ (((access _).done e).blockWriteBack wb)
    case h_2 e => exact ih _ _ _ _ (((access _).abort e).blockWriteBack wb)
    case h_3 e => exact (access _).halt e

theorem Inv.execLdm {s : State} (h : Inv s) (a : Bdt) : KeepsInv (execLdm a s) := by
  refine h.whenPassed (keepsInv_unlessRefused fun _ => ?_)
  have start : Inv (if a.w then s.setReg a.rn (s.bdtSpan a).2 else s) := by
    split
    · exact h.setReg _ _
    · exact h
  have transfers := ldmTransfers_keepsInv (bdtUserBank a true) (regList a.list) (s.bdtSpan a).1 0#32 none start
  dsimp only
  split
  case h_1 e => exact transfers.halt e
  case h_2 e => exact ((((transfers.done e).setReg _ _).startHazard _).dataAbort _ _).next
  case h_3 e =>
    have loaded := transfers.done e
    split
    · split
      · exact loaded.returnTo _
      · exact (loaded.branchTo _).next
    · exact (loaded.startHazard _).advance.next

theorem Inv.execStm {s : State} (h : Inv s) (a : Bdt) : KeepsInv (execStm a s) := by
  refine h.whenPassed (keepsInv_unlessRefused fun _ => ?_)
  have transfers (wb : Option (RegNum × Word)) :=
    stmTransfers_keepsInv (bdtUserBank a false) wb (regList a.list) (s.bdtSpan a).1 false none h
  dsimp only
  split
  case h_1 e => exact (transfers _).halt e
  case h_2 e => exact (((transfers _).done e).dataAbort _ _).next
  case h_3 e => exact ((transfers _).done e).advance.next

/-! ### Coprocessors -/

/-- The state that the transfers of an LDC or STC leave, or that a reset inside them gives, has the invariant. -/
def CoprocOut.KeepsInv : CoprocOut → Prop
  | .done _ s => Inv s
  | .halt r => Machine.KeepsInv r

theorem CoprocOut.KeepsInv.done {x : CoprocOut} {f : Option (MemFault × Word)} {t : State} (h : x.KeepsInv)
    (e : x = .done f t) : Inv t := by subst e; exact h

theorem CoprocOut.KeepsInv.halt {x : CoprocOut} {r : Result} (h : x.KeepsInv) (e : x = .halt r) :
    Machine.KeepsInv r := by subst e; exact h

theorem ldcTransfers_keepsInv (n : Nat) (addr : Word) {s : State} (h : Inv s) : (ldcTransfers n addr s).KeepsInv := by
  induction n generalizing addr s with
  | zero => exact h
  | succ n ih =>
    have access := h.readWord addr .data
    unfold ldcTransfers
    split
    case h_1 e => exact ih _ ((access.done e).sendWord _)
    case h_2 e => exact access.abort e
    case h_3 e => exact access.halt e

theorem stcTransfers_keepsInv (supplied : Nat → Word) (n k : Nat) (addr : Word) {s : State} (h : Inv s) :
    (stcTransfers supplied n k addr s).KeepsInv := by
  induction n generalizing k addr s with
  | zero => exact h
  | succ n ih =>
    have access := h.memWrite addr (.word (supplied k)) false (decide (0 < k))
    unfold stcTransfers
    split
    case h_1 e => exact ih _ _ (access.done e)
    case h_2 e => exact access.abort e
    case h_3 e => exact access.halt e

theorem Inv.ldcExtraRead {s : State} (h : Inv s) (addr : Word) : (s.ldcExtraRead addr).KeepsInv := by
  have access := h.readWord addr .data
  unfold State.ldcExtraRead
  split
  case h_1 e => exact access.done e
  case h_2 e => exact access.abort e
  case h_3 e => exact access.halt e

theorem Inv.endCdt {s : State} (h : Inv s) (rn : RegNum) (t : TransferAddr) (abort : Option (MemFault × Word)) :
    KeepsInv (s.endCdt rn t abort) := by
  cases abort with
  | none => exact (h.writeBack rn t).advance.next
  | some f => exact ((h.writeBack rn t).dataAbort f.1 f.2).next

theorem Inv.handshake {s : State} (h : Inv s) (w : Word) {accepted : Nat → List Word → State → Result}
    (ha : ∀ count data, KeepsInv (accepted count data s.popAnswer)) : KeepsInv (s.handshake w accepted) := by
  unfold State.handshake
  split
  · exact h.popAnswer.enterUndefined.next
  · exact (h.popAnswer.busyWait w).next
  · exact (h.busyWait w).next
  · exact ha _ _

theorem Inv.loadCoproc {s : State} (h : Inv s) (a : Cdt) : KeepsInv (s.loadCoproc a) := by
  refine h.handshake _ fun count _ => ?_
  have transfers (n : Nat) (addr : Word) :=
    ldcTransfers_keepsInv n addr (h.popAnswer.sendCoproc (encode (.ldc a)) [])
  dsimp only
  split
  case h_1 e => exact (transfers _ _).halt e
  case h_2 e => exact ((transfers _ _).done e).endCdt _ _ _
  case h_3 e =>
    have extra (addr : Word) := ((transfers _ _).done e).ldcExtraRead addr
    split
    case h_1 e' => exact (extra _).halt e'
    case h_2 e' => exact ((extra _).done e').endCdt _ _ _

theorem Inv.storeCoproc {s : State} (h : Inv s) (a : Cdt) : KeepsInv (s.storeCoproc a) := by
  refine h.handshake _ fun count data => ?_
  have transfers (supplied : Nat → Word) (n : Nat) (addr : Word) :=
    stcTransfers_keepsInv supplied n 0 addr (h.popAnswer.sendCoproc (encode (.stc a)) [])
  dsimp only
  split
  case h_1 e => exact (transfers _ _ _).halt e
  case h_2 e => exact ((transfers _ _ _).done e).endCdt _ _ _

theorem Inv.execMrc {s : State} (h : Inv s) (a : Crt) : KeepsInv (execMrc a s) := by
  refine h.whenPassed ?_
  split
  · split
    · exact (h.mrcWrite _ _).next
    · exact h.enterUndefined.next
  · exact h.handshake _ fun _ _ => ((h.popAnswer.sendCoproc _ _).mrcWrite _ _).next

theorem Inv.execMcr {s : State} (h : Inv s) (a : Crt) : KeepsInv (execMcr a s) := by
  refine h.whenPassed ?_
  split
  · split
    · exact h.advance.next
    · exact h.enterUndefined.next
  · exact h.handshake _ fun _ _ => (h.popAnswer.sendCoproc _ _).advance.next

/-- A control register write that is not refused has a valid combination (R139). -/
theorem invalid_of_controlRefusal {s : State} {c : Control} (h : s.controlRefusal c = none) : c.invalid = false := by
  unfold State.controlRefusal at h
  split at h
  · cases h
  · simpa using ‹¬c.invalid = true›

/-! ### Every instruction -/

/-- Every instruction keeps the invariant. -/
theorem Inv.exec {s : State} (h : Inv s) (i : Instr) : KeepsInv (exec i s) := by
  cases i with
  | andImm a | eorImm a | subImm a | rsbImm a | addImm a | adcImm a | sbcImm a | rscImm a | orrImm a | movImm a
  | bicImm a | mvnImm a => exact h.whenPassed (h.dpWrite _ _ _ _)
  | andShift a | eorShift a | subShift a | rsbShift a | addShift a | adcShift a | sbcShift a | rscShift a | orrShift a
  | movShift a | bicShift a | mvnShift a => exact h.whenPassed (h.dpWrite _ _ _ _)
  | andRegShift a | eorRegShift a | subRegShift a | rsbRegShift a | addRegShift a | adcRegShift a | sbcRegShift a
  | rscRegShift a | orrRegShift a | movRegShift a | bicRegShift a | mvnRegShift a =>
    exact h.whenPassed (keepsInv_unlessRefused fun _ => h.dpWrite _ _ _ _)
  | tstImm a | teqImm a | cmpImm a | cmnImm a => exact h.whenPassed (h.dpTest _ _)
  | tstShift a | teqShift a | cmpShift a | cmnShift a => exact h.whenPassed (h.dpTest _ _)
  | tstRegShift a | teqRegShift a | cmpRegShift a | cmnRegShift a =>
    exact h.whenPassed (keepsInv_unlessRefused fun _ => h.dpTest _ _)
  | mrs a => exact h.execMrs a
  | msr a => exact h.execMsr a
  | msrFlgReg a => exact h.whenPassed (keepsInv_unlessRefused fun _ => h.writePsrFlags _ _)
  | msrFlgImm a => exact h.whenPassed (h.writePsrFlags _ _)
  | mul a => exact h.whenPassed (keepsInv_unlessRefused fun _ => h.writeProduct _ _ _ _)
  | mla a => exact h.execMla a
  | swp a => exact h.execSwp a
  | swpb a => exact h.execSwpb a
  | ldrImm a | ldrReg a => exact h.whenPassed (keepsInv_unlessRefused fun _ => h.loadWord _ _ _)
  | ldrbImm a | ldrbReg a => exact h.whenPassed (keepsInv_unlessRefused fun _ => h.loadByte _ _ _)
  | strImm a | strbImm a | strReg a | strbReg a =>
    exact h.whenPassed (keepsInv_unlessRefused fun _ => h.storeBus _ _ _)
  | undefined a => exact h.whenPassed h.enterUndefined.next
  | ldm a => exact h.execLdm a
  | stm a => exact h.execStm a
  | b a => exact h.whenPassed (h.branchTo _).next
  | bl a => exact h.whenPassed ((h.setReg _ _).branchTo _).next
  | ldc a => exact h.whenPassed (h.unlessCp15 (keepsInv_unlessRefused fun _ => h.loadCoproc a))
  | stc a => exact h.whenPassed (h.unlessCp15 (keepsInv_unlessRefused fun _ => h.storeCoproc a))
  | cdp a =>
    exact h.whenPassed (h.unlessCp15 (h.handshake _ fun _ _ => (h.popAnswer.sendCoproc _ _).advance.next))
  | mrc a => exact h.execMrc a
  | mcr a => exact h.execMcr a
  | swi a => exact h.whenPassed h.enterSwi.next
  | mrcId a | mrcFsr a | mrcFar a => exact h.whenPassed (h.whenPrivileged (h.mrcWrite _ _).next)
  | mcrControl a =>
    exact h.whenPassed (h.whenPrivileged (keepsInv_unlessRefused fun allowed =>
      (h.setControl (invalid_of_controlRefusal allowed)).advance.next))
  | mcrTtb a => exact h.whenPassed (h.whenPrivileged (h.setTtb _).advance.next)
  | mcrDacr a => exact h.whenPassed (h.whenPrivileged (h.setDacr _).advance.next)
  | mcrTlbFlush a => exact h.whenPassed (h.whenPrivileged h.tlbFlush.advance.next)
  | mcrTlbPurge a => exact h.whenPassed (h.whenPrivileged (h.tlbPurge _).advance.next)
  | mcrIdcFlush a => exact h.whenPassed (h.whenPrivileged h.idcFlush.advance.next)

/-! ### The fetch and the step -/

theorem Inv.fetchAt {s : State} (h : Inv s) (va : Word) : (s.fetchAt va).KeepsInv := by
  have access := h.read (readBusWord_obeys s va .fetch)
  unfold State.fetchAt
  split
  case h_1 e => exact access.done e
  case h_2 e => exact access.abort e
  case h_3 e => exact access.halt e

/-- A later fetch brings from the memory system only what its accesses leave in memory and the write buffer. -/
theorem Inv.lateFetch {s : State} (h : Inv s) (old : Fetched) (va : Word) : Inv (s.lateFetch old va).2 := by
  have access := (readBusWord_obeys (s.underSettings old) va .fetch).imp (Q := fun _ t => MemOk t)
    fun _ k => k.ok ⟨h.memory, h.bufferWords, h.bufferRuns⟩
  unfold State.lateFetch
  split
  case h_1 e => have ok := access.done e; exact h.withMemory _ ok.memory ok.words ok.runs
  case h_2 e => have ok := access.abort e; exact h.withMemory _ ok.memory ok.words ok.runs
  case h_3 => exact h

theorem Inv.refetch {s : State} (h : Inv s) (k : Nat) (old : Fetched) (va : Word) : Inv (s.refetch k old va).2 := by
  unfold State.refetch
  dsimp only
  split
  · exact h.lateFetch _ va
  · exact h

theorem Inv.fetchSlot {s : State} (h : Inv s) (k : Nat) : (s.fetchSlot k).KeepsInv := by
  unfold State.fetchSlot
  dsimp only
  split
  · exact h.refetch _ _ _
  · exact h.fetchAt _

theorem Inv.fetchStage {s : State} (h : Inv s) : s.fetchStage.KeepsInv :=
  (h.fetchSlot 0).andThen fun _ _ h0 => (h0.fetchSlot 1).andThen fun f1 _ h1 =>
    (h1.fetchSlot 2).andThen fun f2 _ h2 => h2.setPrefetch f1 f2

theorem keepsInv_finish {r : Result} (h : KeepsInv r) : KeepsInv (finish r) := by
  cases r with
  | next t => exact (h t rfl).afterInstruction.next
  | fault f => cases f
  | refused r => exact keepsInv_refused r

theorem Inv.runWord {s : State} (h : Inv s) (w : Word) : KeepsInv (s.runWord w) := by
  unfold State.runWord
  split
  · exact keepsInv_finish (h.exec _)
  · split
    · exact keepsInv_refused _
    · exact keepsInv_finish h.advance.next

theorem Inv.runFetched {s : State} (h : Inv s) (f : Fetched) : KeepsInv (s.runFetched f) := by
  unfold State.runFetched
  split
  · exact h.enterPrefetchAbort.bump.next
  · exact h.runWord _

theorem Inv.runInstruction {s : State} (h : Inv s) : KeepsInv s.runInstruction := by
  unfold State.runInstruction
  split
  · exact h.notWaiting.runWord _
  · have fetched := h.fetchStage
    split
    case h_1 e => exact (fetched.done e).runFetched _
    case h_2 e => exact (fetched.abort e).enterPrefetchAbort.bump.next
    case h_3 e => exact fetched.halt e

/-- The words of other bus masters at a boundary keep the invariant (R599). -/
theorem Inv.boundary {s : State} (h : Inv s) : Inv { s.popInputs with mem := applyDma s.nextInputs.dma s.mem } :=
  { h.popInputs with memory := wf_applyDma h.memory }

theorem Inv.cycle {s : State} (h : Inv s) : KeepsInv s.cycle := by
  have drained := h.boundary.read (drainSome_obeys _)
  unfold State.cycle
  dsimp only
  split
  · exact h.boundary.boundaryReset.next
  · split
    · exact h.boundary.enterFiq.bump.next
    · split
      · exact h.boundary.enterIrq.bump.next
      · split
        case h_1 e => exact (drained.done e).runInstruction
        case h_2 e => exact (drained.abort e).runInstruction
        case h_3 e => exact drained.halt e

/-- Settles O60: the invariant is carried through the boundary, the fetch and the instruction, each by its own lemma. -/
theorem invariantKept : Obligations.InvariantKept := fun _ t h e => h.cycle t e

/-- Settles O59: memory, the prefetch and the write buffer are empty after reset, and the MMU, cache and write buffer are
off. -/
theorem invariantAtReset : Obligations.InvariantAtReset where
  memory := rfl
  pcAligned := by decide
  prefetched := Nat.zero_le 2
  bufferWords := Nat.zero_le 8
  bufferRuns := Nat.zero_le 2
  combination := rfl
  hazardRange := Nat.zero_le 2

end Sys2Proof.Machine
end

section
/-! Registers: the bank of each mode, what a write in a bank reaches, what a register number reads. -/

namespace Sys2Proof.Machine

/-! ### The place of a register in the register file -/

/-- The register number whose place in the register file is `n`: the inverse of `bankIndex` on R0 to R14. -/
def numberAt (n : Nat) : Nat := if n < 15 then n else if n < 22 then n - 7 else 13 + n % 2

/-- How far above its number a mode's own R13 lies in the register file. -/
def ownOffset : Mode → Nat
  | .usr => 0
  | .fiq => 7
  | .irq => 9
  | .svc => 11
  | .abt => 13
  | .und => 15

theorem ownOffset_inj {m m' : Mode} : ownOffset m = ownOffset m' ↔ m = m' := by
  cases m <;> cases m' <;> simp [ownOffset]

/-- R0 to R7 have one place in all modes. -/
theorem bankIndex_of_lt_eight (m : Mode) {i : Nat} (h : i < 8) : bankIndex m i = i := by
  cases m <;> simp only [bankIndex] <;> rw [if_neg (by omega)]

/-- R8 to R12 have a place of their own in FIQ mode only. -/
theorem bankIndex_of_lt_thirteen (m : Mode) {i : Nat} (h8 : 8 ≤ i) (h : i < 13) :
    bankIndex m i = if m = .fiq then i + 7 else i := by
  cases m with
  | usr => rfl
  | fiq => exact if_pos h8
  | irq | svc | abt | und => exact if_neg (by omega)

/-- R13 and R14 have a place of their own in every mode. -/
theorem bankIndex_of_thirteen_le (m : Mode) {i : Nat} (h : 13 ≤ i) : bankIndex m i = i + ownOffset m := by
  cases m with
  | usr => rfl
  | fiq => exact if_pos (by omega)
  | irq | svc | abt | und => exact if_pos h

theorem numberAt_bankIndex (m : Mode) {i : Nat} (h : i < 15) : numberAt (bankIndex m i) = i := by
  unfold numberAt
  rcases lt_or_ge i 8 with h8 | h8
  · rw [bankIndex_of_lt_eight m h8, if_pos h]
  · rcases lt_or_ge i 13 with h13 | h13
    · rw [bankIndex_of_lt_thirteen m h8 h13]
      split_ifs <;> omega
    · obtain rfl | rfl : i = 13 ∨ i = 14 := by omega
      all_goals cases m <;> rfl

/-- Two modes have one place for a register number exactly where the spec gives them one register (R32). -/
theorem bankIndex_eq_iff_shared (m m' : Mode) (i : Nat) :
    bankIndex m i = bankIndex m' i ↔ m = m' ∨ i < 8 ∨ (i < 13 ∧ m ≠ .fiq ∧ m' ≠ .fiq) := by
  rcases lt_or_ge i 8 with h8 | h8
  · simp [bankIndex_of_lt_eight, h8]
  · rcases lt_or_ge i 13 with h13 | h13
    · rw [bankIndex_of_lt_thirteen m h8 h13, bankIndex_of_lt_thirteen m' h8 h13]
      by_cases hm : m = .fiq <;> by_cases hm' : m' = .fiq <;> simp [hm, hm', h13, h8.not_gt, eq_comm]
    · rw [bankIndex_of_thirteen_le m h13, bankIndex_of_thirteen_le m' h13, Nat.add_left_cancel_iff, ownOffset_inj]
      simp [h8.not_gt, h13.not_gt]

theorem bankIndex_lt (m : Mode) {i : Nat} (h : i < 15) : bankIndex m i < 30 := by
  rcases lt_or_ge i 8 with h8 | h8
  · rw [bankIndex_of_lt_eight m h8]
    omega
  · rcases lt_or_ge i 13 with h13 | h13
    · rw [bankIndex_of_lt_thirteen m h8 h13]
      split_ifs <;> omega
    · rw [bankIndex_of_thirteen_le m h13]
      cases m <;> simp only [ownOffset] <;> omega

theorem toNat_lt_of_ne_pc {r : RegNum} (h : r ≠ 15#4) : r.toNat < 15 := by bv_omega

theorem phys_val (m : Mode) {r : RegNum} (h : r ≠ 15#4) : (phys m r).val = bankIndex m r.toNat :=
  Nat.mod_eq_of_lt (bankIndex_lt m (toNat_lt_of_ne_pc h))

/-- R32, R33: a place determines its register number, and the modes that share the place share the register. -/
theorem phys_eq_iff {m m' : Mode} {r r' : RegNum} (h : r ≠ 15#4) (h' : r' ≠ 15#4) :
    phys m r = phys m' r' ↔ r = r' ∧ (m = m' ∨ r.toNat < 8 ∨ (r.toNat < 13 ∧ m ≠ .fiq ∧ m' ≠ .fiq)) := by
  have hr := toNat_lt_of_ne_pc h
  have hr' := toNat_lt_of_ne_pc h'
  rw [Fin.ext_iff, phys_val m h, phys_val m' h', ← bankIndex_eq_iff_shared m m']
  constructor
  · intro e
    have same : r = r' := BitVec.eq_of_toNat_eq (by rw [← numberAt_bankIndex m hr, e, numberAt_bankIndex m' hr'])
    subst same
    exact ⟨rfl, e⟩
  · rintro ⟨rfl, e⟩
    exact e

/-- A register reads back what was last written at its place. -/
theorem regIn_setRegIn (s : State) (m m' : Mode) (r r' : RegNum) (v : Word) :
    (s.setRegIn m r v).regIn m' r' = if phys m r = phys m' r' then v else s.regIn m' r' := by
  simp [State.regIn, Vector.getElem_set, Fin.ext_iff]

theorem spsrOf_setSpsr (s : State) {m : Mode} (m' : Mode) (p : Psr) (h : m ≠ .usr) :
    (s.setSpsr m p).spsrOf m' = if m' = m then some p else s.spsrOf m' := by
  cases m with
  | usr => exact absurd rfl h
  | fiq | irq | svc | abt | und => cases m' <;> rfl

/-- Settles O12: the places of two banks are equal exactly where they share the register, and a read after a write looks
at the place alone. -/
theorem bankSelection : Obligations.BankSelection := by
  refine ⟨fun m m' r r' h h' => ⟨phys_eq_iff h h', fun s v => ?_⟩, fun s m m' p => ?_⟩
  · simp only [regIn_setRegIn, phys_eq_iff h h']
  · exact ⟨rfl, rfl, spsrOf_setSpsr s m' p, State.setSpsr_regs s m p, State.setSpsr_cpsr s m p, State.setSpsr_mem s m p⟩

/-! ### Reading a register number -/

theorem readReg_pc (s : State) (role : Role) (ahead : Word) : s.readReg role 15#4 ahead = s.pc + ahead := if_pos rfl

/-- The hazard of a User-bank LDM lasts for one instruction and is about banked numbers only (R590). -/
theorem hazardous_eq_false {s : State} {r : RegNum} (h : s.hazard ≠ 1 ∨ phys s.cpsr.mode r = phys .usr r) :
    s.hazardous r = false := by
  rcases h with h | h <;> simp [State.hazardous, isBanked, h]

theorem readReg_of_not_hazardous {s : State} {role : Role} {r : RegNum} {ahead : Word} (hr : r ≠ 15#4)
    (hz : s.hazardous r = false) : s.readReg role r ahead = s.regIn s.cpsr.mode r := by
  simp [State.readReg, hr, hz]

/-- Settles O13: a read of R15, a read without hazard, and a read of the User bank. -/
theorem registerReads : Obligations.RegisterReads := by
  intro s role r ahead
  refine ⟨?_, fun hr hz => readReg_of_not_hazardous hr (hazardous_eq_false hz), rfl⟩
  rintro rfl
  exact readReg_pc s role ahead

/-- Settles O58: the fields of the reset state to which the spec gives a value (R80, R570). -/
theorem resetState : Obligations.ResetState := ⟨rfl, rfl, rfl, rfl, rfl, rfl, rfl⟩

end Sys2Proof.Machine
end

section
/-! The prefetched words: which word a slot of the prefetch gives, and what the later fetch behind it leaves. -/

namespace Sys2Proof.Machine

/-- The settings of a later fetch differ from those of the first in the control register alone, and there only after an
MMU switch (R75, R359). -/
theorem lateSettings_cases (s : State) (k : Nat) (old : Fetched) :
    s.lateSettings k old = old
    ∨ (s.lateSettings k old = { old with control := s.control } ∧ old.control.m ≠ s.control.m) := by
  unfold State.lateSettings
  split
  · rename_i switched
    simp only [Bool.and_eq_true, bne_iff_ne] at switched
    exact Or.inr ⟨rfl, switched.1⟩
  · exact Or.inl rfl

/-- What a prefetched word that is fetched again brings: all that it changes in the state are the memory, the write
buffer and the counter of free values that the accesses leave. -/
def LateFetched (s : State) (old : Fetched) (va : Word) (f : Fetched) (t : State) : Prop :=
  ∃ u : State, t = { s with mem := u.mem, writeBuffer := u.writeBuffer, draws := u.draws } ∧
    ((∃ w, (s.underSettings old).readBusWord va .fetch = .done w u ∧ f = { old with word := some w })
    ∨ (∃ e, (s.underSettings old).readBusWord va .fetch = .abort e u ∧ f = { old with word := none }))

/-- A later fetch is made, or it would be refused or cut off and the old word stays. -/
theorem lateFetch_cases (s : State) (old : Fetched) (va : Word) :
    s.lateFetch old va = (old, s) ∨ LateFetched s old va (s.lateFetch old va).1 (s.lateFetch old va).2 := by
  unfold LateFetched State.lateFetch
  split
  case h_1 w u e => exact Or.inr ⟨u, rfl, Or.inl ⟨w, e, rfl⟩⟩
  case h_2 f u e => exact Or.inr ⟨u, rfl, Or.inr ⟨f, e, rfl⟩⟩
  case h_3 => exact Or.inl rfl

theorem lateSettings_word (s : State) (k : Nat) (old : Fetched) : (s.lateSettings k old).word = old.word := by
  rcases lateSettings_cases s k old with e | ⟨e, -⟩ <;> rw [e]

/-- A prefetched word is the old one with nothing changed, or that of a later fetch (R75). -/
theorem refetch_cases (s : State) (k : Nat) (old : Fetched) (va : Word) :
    s.refetch k old va = (old, s)
    ∨ LateFetched s (s.lateSettings k old) va (s.refetch k old va).1 (s.refetch k old va).2 := by
  unfold State.refetch
  dsimp only
  split
  · rename_i chosen
    rcases lateFetch_cases s (s.lateSettings k old) va with e | late
    · simp [e, lateSettings_word] at chosen
    · exact Or.inr late
  · exact Or.inl rfl

/-- A later fetch leaves everything but memory, the write buffer and the counter of free values alone. -/
theorem LateFetched.frame {s t : State} {old f : Fetched} {va : Word} (h : LateFetched s old va f t) :
    AccessFrame s t ∧ t.tlb = s.tlb ∧ t.idc = s.idc ∧ t.busTape = s.busTape := by
  obtain ⟨u, rfl, -⟩ := h
  exact ⟨by constructor <;> rfl, rfl, rfl, rfl⟩

/-- A later fetch keeps the settings it is made under. -/
theorem LateFetched.settings {s t : State} {old f : Fetched} {va : Word} (h : LateFetched s old va f t) :
    f.control = old.control ∧ f.privileged = old.privileged := by
  obtain ⟨u, -, ⟨w, -, rfl⟩ | ⟨e, -, rfl⟩⟩ := h <;> exact ⟨rfl, rfl⟩

/-- A later fetch brings the word that the access reads, or the mark of its abort, and the memory that it leaves. -/
theorem LateFetched.brought {s t : State} {old f : Fetched} {va : Word} (h : LateFetched s old va f t) :
    (∃ w u, (s.underSettings old).readBusWord va .fetch = .done w u ∧ f.word = some w ∧ t.mem = u.mem)
    ∨ (∃ e u, (s.underSettings old).readBusWord va .fetch = .abort e u ∧ f.word = none ∧ t.mem = u.mem) := by
  obtain ⟨u, rfl, ⟨w, hw, rfl⟩ | ⟨e, he, rfl⟩⟩ := h
  · exact Or.inl ⟨w, u, hw, rfl, rfl⟩
  · exact Or.inr ⟨e, u, he, rfl, rfl⟩

theorem fetchSlot_prefetched {s : State} {k : Nat} {old : Fetched} (h : s.prefetch[k]? = some old) :
    s.fetchSlot k = .done (s.refetch k old (s.pc + BitVec.ofNat 32 (4 * k))).1
      (s.refetch k old (s.pc + BitVec.ofNat 32 (4 * k))).2 := by
  unfold State.fetchSlot
  simp only [h]

/-- Settles O6: the slot keeps its word, or a later fetch under admitted settings brought the word or the abort mark. -/
theorem prefetchedWordsRun : Obligations.PrefetchedWordsRun := by
  intro s k old h va fetching
  refine ⟨_, _, fetchSlot_prefetched h, ?_⟩
  rcases refetch_cases s k old va with e | late
  · rw [e]
    exact ⟨rfl, Or.inl rfl, AccessFrame.refl s, rfl, rfl, rfl, Or.inl ⟨rfl, rfl⟩⟩
  · obtain ⟨hframe, htlb, hidc, htape⟩ := late.frame
    obtain ⟨hcontrol, hprivileged⟩ := late.settings
    have under : s.underSettings (s.lateSettings k old) = fetching (s.refetch k old va).1.control := by
      rw [hcontrol]
      rcases lateSettings_cases s k old with e | ⟨e, -⟩ <;> rw [e] <;> rfl
    refine ⟨?_, ?_, hframe, htlb, hidc, htape, Or.inr (under ▸ late.brought)⟩
    · rw [hprivileged]
      rcases lateSettings_cases s k old with e | ⟨e, -⟩ <;> rw [e]
    · rw [hcontrol]
      rcases lateSettings_cases s k old with e | ⟨e, switched⟩
      · exact Or.inl (by rw [e])
      · exact Or.inr ⟨by rw [e], switched⟩

end Sys2Proof.Machine
end

section
/-! Bytes of a bus word: which cell of memory a lane of a word read holds, and the lane that a rotated word or a byte
load takes. -/

namespace Sys2Proof.Machine

theorem laneBits_toNat (a : Word) : (laneBits a).toNat = a.toNat % 4 := by
  simp [laneBits, BitVec.extractLsb'_toNat]

/-- An address is its word address and its low two bits (R101). -/
theorem wordAddr_add_laneBits (a : Word) : (wordAddr a).toNat + (laneBits a).toNat = a.toNat := by
  rw [wordAddr_toNat, laneBits_toNat, Nat.mul_comm]
  exact Nat.div_add_mod a.toNat 4

/-- A word put together from four lanes holds each of them. -/
theorem getLane_wordOfLanes (b : BitVec 2 → Byte) (k : BitVec 2) :
    getLane (wordOfLanes (b 0#2) (b 1#2) (b 2#2) (b 3#2)) k = b k := by
  have four : k = 0#2 ∨ k = 1#2 ∨ k = 2#2 ∨ k = 3#2 := by revert k; decide
  rcases four with rfl | rfl | rfl | rfl <;>
    simp [getLane, wordOfLanes, field_or, field_place_same, field_place_below, field_place_above]

/-- R100, R101: lane `k` of a word read is the cell at the word address plus `k`. -/
theorem getLane_readWord (m : Memory) (a : Word) (k : BitVec 2) :
    getLane (Memory.readWord m a) k = Memory.read m ((wordAddr a).toNat + k.toNat) :=
  getLane_wordOfLanes (fun k => Memory.read m ((wordAddr a).toNat + k.toNat)) k

/-- R106: a rotation right by `k` bytes brings lane `j + k` of the word to byte `j`. -/
theorem getLane_rotateRight (w : Word) (j k : BitVec 2) :
    getLane (w.rotateRight (8 * k.toNat)) j = getLane w (j + k) := by
  have hj := j.isLt
  have hk := k.isLt
  apply BitVec.eq_of_getLsbD_eq
  intro i hi
  simp only [getLane, Bool.cond_decide, BitVec.getLsbD_extractLsb', BitVec.getLsbD_rotateRight, BitVec.toNat_add,
    Nat.mod_eq_of_lt (show 8 * k.toNat < 32 by omega)]
  split
  · rw [show 8 * k.toNat + (8 * j.toNat + i) = 8 * ((j.toNat + k.toNat) % 2 ^ 2) + i by omega]
  · rw [decide_eq_true (show 8 * j.toNat + i < 32 by omega), Bool.true_and,
      show 8 * j.toNat + i - (32 - 8 * k.toNat) = 8 * ((j.toNat + k.toNat) % 2 ^ 2) + i by omega]

theorem laneOf_big_toNat (k : BitVec 2) : (laneOf true k).toNat = 3 - k.toNat := by
  revert k; decide

/-- Settles O28: each lane of the bus word is a cell of memory, and a rotation or the byte order picks the lane. -/
theorem byteLanes : Obligations.ByteLanes := by
  refine ⟨fun m va j => ?_, fun m va => ⟨?_, ?_⟩⟩
  · rw [rotateLoaded, getLane_rotateRight, getLane_readWord, wordAddr_toNat, BitVec.toNat_add, laneBits_toNat]
    simp
  · rw [getLane_readWord]
    exact congrArg _ (wordAddr_add_laneBits va)
  · rw [getLane_readWord, laneOf_big_toNat, wordAddr_toNat, laneBits_toNat]

end Sys2Proof.Machine
end

section
/-! Stores and data accesses with the MMU off: what a bus write leaves in each cell, STR and STRB right after reset, and
which flat accesses abort. -/

namespace Sys2Proof.Machine

/-! ### A bus write and the cells of memory -/

/-- A bus write reaches its own bus word alone (R105, R107). -/
theorem read_onMemory_outside {w : BusWrite} {m : Memory} {pa : Word} {a : Nat} (h : outsideWord pa a) :
    Memory.read (w.onMemory m pa) a = Memory.read m a := by
  cases w with
  | word v => exact Memory.read_writeWord_other h
  | lane k v =>
    have hk := k.isLt
    refine Memory.read_writeLane_other ?_
    unfold outsideWord at h
    omega

/-! ### STR and STRB in the flat memory -/

/-- The bus write that a store of R`rd` at `va` makes: a byte lane for STRB, the unrotated word for STR (R386, R387). -/
def State.storedWrite (s : State) (byte : Bool) (rd : RegNum) (va : Word) : BusWrite :=
  if byte then s.byteWrite va (s.readReg .rd rd 12#32) else .word (s.readReg .rd rd 12#32)

theorem whenPassed_of_passed {c : Cond} {s : State} {k : Result} (h : condPassed c s.cpsr = true) :
    whenPassed c s k = k := if_pos h

/-- A store with an immediate offset whose condition passes: the refusal of its form, or the store. -/
theorem exec_storeImm {s : State} {a : SdtImm} (byte : Bool) (h : condPassed a.cond s.cpsr = true) :
    exec (if byte then .strbImm a else .strImm a) s = unlessRefused (sdtRefusal a.p a.w a.rn)
      (s.storeBus a.rn (s.sdtAddrImm a) (s.storedWrite byte a.rd (s.sdtAddrImm a).addr)) := by
  cases byte <;> exact whenPassed_of_passed h

/-- The same with a register offset. -/
theorem exec_storeReg {s : State} {a : SdtReg} (byte : Bool) (h : condPassed a.cond s.cpsr = true) :
    exec (if byte then .strbReg a else .strReg a) s = unlessRefused (sdtRegRefusal a.p a.w a.rn a.rm)
      (s.storeBus a.rn (s.sdtAddrReg a) (s.storedWrite byte a.rd (s.sdtAddrReg a).addr)) := by
  cases byte <;> exact whenPassed_of_passed h

/-- The end of a store: the base is written back and the next instruction follows. -/
theorem writeBack_advance (s : State) (rn : RegNum) (t : TransferAddr) :
    (s.writeBack rn t).advance = { s with regs := s.movedBase rn t, pc := s.pc + 4#32 } := by
  unfold State.writeBack State.movedBase
  split <;> rfl

theorem Flat.storeBus {s : State} (h : Flat s) (rn : RegNum) (t : TransferAddr) (w : BusWrite) :
    ∃ c d, s.storeBus rn t w = .next { s with
        regs := s.movedBase rn t, pc := s.pc + 4#32, mem := w.onMemory s.mem t.addr, idc := c, draws := d }
      ∧ (s.idcFind t.addr = none → c = s.idc ∧ d = s.draws) := by
  obtain ⟨c, d, written, follows⟩ := h.memWrite_any t.addr w false false
  refine ⟨c, d, ?_, follows⟩
  unfold State.storeBus
  rw [written]
  dsimp only
  rw [writeBack_advance]
  rfl

/-- Settles O30: every form of STR and STRB is the one store of a bus write, and the flat memory performs it. -/
theorem storesComplete : Obligations.StoresComplete := by
  intro s i rn rd tr byte flat wf passed form
  have run : exec i s = s.storeBus rn tr (s.storedWrite byte rd tr.addr) := by
    obtain ⟨a, allowed, rfl, rfl, rfl, rfl⟩ | ⟨a, allowed, rfl, rfl, rfl, rfl⟩ := form
    · rw [exec_storeImm byte (by cases byte <;> exact passed), allowed]
      rfl
    · rw [exec_storeReg byte (by cases byte <;> exact passed), allowed]
      rfl
  obtain ⟨c, d, stored, follows⟩ := flat.storeBus rn tr (s.storedWrite byte rd tr.addr)
  refine ⟨_, c, d, run.trans stored, follows, fun a => read_onMemory_outside, ?_, ?_⟩
  · rintro rfl
    exact Memory.readWord_writeWord tr.addr _ wf
  · rintro rfl
    exact ⟨Memory.read_write_same wf, fun a other => Memory.read_writeLane_other other⟩

/-! ### Which flat accesses abort -/

theorem readWord_misaligned {s : State} {va : Word} (h : s.misaligned va = true) (kind : ReadKind) :
    s.readWord va kind = .abort .alignment s := if_pos h

theorem readWord_aligned {s : State} {va : Word} (h : s.misaligned va = false) (kind : ReadKind) :
    s.readWord va kind = s.readBusWord va kind := by
  unfold State.readWord
  rw [h]
  rfl

theorem memWrite_misaligned {s : State} {va : Word} (h : s.misaligned va = true) {w : BusWrite}
    (hw : w.isWord = true) (swap seq : Bool) : s.memWrite va w swap seq = .abort .alignment s := by
  unfold State.memWrite
  rw [hw, h]
  rfl

/-- A write that the alignment check lets through is translated, follows into the cache, and is buffered or made (R111,
R133, R141). -/
theorem memWrite_aligned {s : State} {va : Word} {w : BusWrite} (h : w.isWord = true → s.misaligned va = false)
    (swap seq : Bool) : s.memWrite va w swap seq = (s.translate va true).andThen fun t s' =>
      let c := s'.cacheWrite va t.attr w
      if c.control.w && t.attr.b && !swap then c.bufferWrite t.pa w seq
      else c.busWrite t.pa w swap t.attr.externalFault := by
  have passes : ¬(w.isWord && s.misaligned va) = true := by
    cases hw : w.isWord with
    | false => simp
    | true => simp [h hw]
  unfold State.memWrite
  rw [if_neg passes]

theorem misaligned_eq_true_iff {s : State} {va : Word} :
    s.misaligned va = true ↔ s.control.a = true ∧ laneBits va ≠ 0#2 := by
  simp [State.misaligned]

theorem misaligned_eq_false_iff {s : State} {va : Word} :
    s.misaligned va = false ↔ s.control.a = false ∨ laneBits va = 0#2 := by
  rw [← Bool.not_eq_true, misaligned_eq_true_iff, not_and_or, Bool.not_eq_true, not_not]

/-- A read transfer that no reset cuts off. -/
theorem readTransfer_noReset {s : State} (h : s.busAnswer.reset = false) (pa : Word) :
    s.readTransfer pa = .done
      ⟨s.busAnswer.data.getD (Memory.readWord (applyDma s.busAnswer.dma s.mem) pa),
        s.aborts pa || s.busAnswer.abort⟩
      { s with busTape := s.busTape.tail, mem := applyDma s.busAnswer.dma s.mem } := by
  unfold State.readTransfer
  dsimp only
  rw [h]
  rfl

/-- With nothing buffered an external read is one transfer (R202). -/
theorem busRead_unbuffered {s : State} (hb : s.writeBuffer = []) (hr : s.busAnswer.reset = false) (pa : Word)
    (f : MemFault) :
    let after : State := { s with busTape := s.busTape.tail, mem := applyDma s.busAnswer.dma s.mem }
    s.busRead pa f = if s.aborts pa || s.busAnswer.abort then .abort f after
      else .done (s.busAnswer.data.getD (Memory.readWord after.mem pa)) after := by
  unfold State.busRead
  rw [drainAll_nil hb]
  simp only [Access.andThen, readTransfer_noReset hr]

/-- With nothing buffered an external write is one transfer; ABORT is its only other end, and then it may be lost
(R202). -/
theorem busWrite_unbuffered {s : State} (hb : s.writeBuffer = []) (hd : s.busAnswer.dma = [])
    (hr : s.busAnswer.reset = false) (pa : Word) (w : BusWrite) (locked : Bool) (f : MemFault) :
    ∃ (lands : Bool) (d : Nat),
      let t : State := { s with
        busTape := s.busTape.tail, mem := if lands then w.onMemory s.mem pa else s.mem, draws := d }
      ((s.aborts pa || s.busAnswer.abort) = true → s.busWrite pa w locked f = .abort f t)
      ∧ ((s.aborts pa || s.busAnswer.abort) = false → s.busWrite pa w locked f = .done () t ∧ lands = true) := by
  obtain ⟨lands, d, transfer, quiet⟩ := writeTransfer_quiet hd hr pa w locked
  refine ⟨lands, d, fun raised => ?_, fun calm => ⟨?_, (quiet calm).1⟩⟩
  · unfold State.busWrite
    rw [drainAll_nil hb, Access.andThen, transfer, raised]
    rfl
  · unfold State.busWrite
    rw [drainAll_nil hb, Access.andThen, transfer, calm]
    rfl

/-- A write with the MMU off touches of the state only the cache and the counter before it goes to the bus (R112). -/
theorem cacheWrite_flat (s : State) (va : Word) (w : BusWrite) :
    ∃ c d, s.cacheWrite va Attr.flat w = { s with idc := c, draws := d } := by
  unfold State.cacheWrite State.idcUpdate
  dsimp only [Attr.flat]
  cases s.idcFind va with
  | none => exact ⟨_, _, rfl⟩
  | some l =>
    dsimp only
    split <;> exact ⟨_, _, rfl⟩

/-- A flat read is an external read of its own address (R112, R132). -/
theorem readBusWord_flat {s : State} (hm : s.control.m = false) (hc : s.control.c = false) (va : Word)
    (kind : ReadKind) : s.readBusWord va kind = s.busRead va .externalFlat := by
  unfold State.readBusWord
  rw [translate_flat hm, Access.andThen, hc]
  rfl

/-- A flat write is an external write at its own address, once the cache has followed it or not (R112). -/
theorem memWrite_flat {s : State} (hm : s.control.m = false) {va : Word} {w : BusWrite}
    (ha : w.isWord = true → s.misaligned va = false) (swap seq : Bool) :
    ∃ c d, s.memWrite va w swap seq = State.busWrite { s with idc := c, draws := d } va w swap .externalFlat := by
  obtain ⟨c, d, follows⟩ := cacheWrite_flat s va w
  refine ⟨c, d, ?_⟩
  rw [memWrite_aligned ha, translate_flat hm, Access.andThen]
  dsimp only
  rw [follows]
  simp only [Attr.flat, Bool.and_false, Bool.false_and, Bool.false_eq_true, if_false]
  rfl

/-- Settles O32: the alignment check comes before any access, and every flat access that passes it is one transfer. -/
theorem flatAborts : Obligations.FlatAborts := by
  intro s va hm hc hw hb hr raised after held written lost
  have readBusWord (kind : ReadKind) :
      s.readBusWord va kind = if raised then .abort .externalFlat after else .done held after :=
    (readBusWord_flat hm hc va kind).trans (busRead_unbuffered hb hr va .externalFlat)
  refine ⟨fun on low => ?_, fun kind aligned => ?_, fun kind => ?_, fun w swap seq hd aligned => ?_⟩
  · have stops := misaligned_eq_true_iff.2 ⟨on, low⟩
    exact ⟨readWord_misaligned stops, fun v => memWrite_misaligned stops rfl⟩
  · rw [readWord_aligned (misaligned_eq_false_iff.2 aligned), readBusWord kind]
  · unfold State.readByte
    rw [readBusWord kind]
    cases raised <;> rfl
  · obtain ⟨c, d, bus⟩ := memWrite_flat hm (fun word => misaligned_eq_false_iff.2 (aligned word)) swap seq
    obtain ⟨lands, d', aborted, done⟩ :=
      busWrite_unbuffered (s := { s with idc := c, draws := d }) hb hd hr va w swap .externalFlat
    refine ⟨fun up => ⟨_, bus.trans (aborted up), ?_⟩, fun down => ?_⟩
    · cases lands with
      | true => exact Or.inl ⟨c, d', rfl⟩
      | false => exact Or.inr ⟨c, d', rfl⟩
    · obtain ⟨completes, rfl⟩ := done down
      exact ⟨_, bus.trans completes, c, d', rfl⟩

end Sys2Proof.Machine
end

section
/-! Address translation: fields put together as sums, the entries that cover an address, the checks, and the table walk
as far as level one. -/

namespace Sys2Proof.Machine

/-! ### Addresses put together from fields -/

theorem place_toNat {n : Nat} (lo : Nat) (v : BitVec n) (h : lo + n ≤ 32) :
    (place lo v).toNat = 2 ^ lo * v.toNat := by
  have bound : 2 ^ lo * v.toNat < 2 ^ 32 :=
    calc 2 ^ lo * v.toNat < 2 ^ lo * 2 ^ n := Nat.mul_lt_mul_of_pos_left v.isLt (Nat.two_pow_pos lo)
      _ = 2 ^ (lo + n) := (Nat.pow_add 2 lo n).symm
      _ ≤ 2 ^ 32 := Nat.pow_le_pow_right (by decide) h
  have fits : v.toNat < 2 ^ 32 := v.isLt.trans_le (Nat.pow_le_pow_right (by decide) (by omega))
  rw [place, BitVec.toNat_shiftLeft, BitVec.toNat_setWidth, Nat.mod_eq_of_lt fits, Nat.shiftLeft_eq, Nat.mul_comm,
    Nat.mod_eq_of_lt bound]

/-- A field over a lower one that it does not meet is their sum. -/
theorem place_or_place_toNat {n m : Nat} (hi lo : Nat) (v : BitVec n) (u : BitVec m) (meet : lo + m ≤ hi)
    (h : hi + n ≤ 32) : (place hi v ||| place lo u).toNat = 2 ^ hi * v.toNat + 2 ^ lo * u.toNat := by
  have below : 2 ^ lo * u.toNat < 2 ^ hi :=
    calc 2 ^ lo * u.toNat < 2 ^ lo * 2 ^ m := Nat.mul_lt_mul_of_pos_left u.isLt (Nat.two_pow_pos lo)
      _ = 2 ^ (lo + m) := (Nat.pow_add 2 lo m).symm
      _ ≤ 2 ^ hi := Nat.pow_le_pow_right (by decide) meet
  rw [BitVec.toNat_or, place_toNat hi v h, place_toNat lo u (by omega), Nat.two_pow_add_eq_or_of_lt below]

theorem field_toNat (w : Word) (lo len : Nat) : (field w lo len).toNat = w.toNat / 2 ^ lo % 2 ^ len := by
  rw [BitVec.extractLsb'_toNat, Nat.shiftRight_eq_div_pow]

/-- The section number of an address is its top twelve bits. -/
theorem sectionNumber_toNat (va : Word) : (field va 20 12).toNat = va.toNat / 2 ^ 20 := by
  have h := va.isLt
  rw [field_toNat]
  omega

/-- R165: the level one descriptor is the section number's word of the table. -/
theorem levelOneAddr_eq (s : State) (va : Word) :
    s.levelOneAddr va = BitVec.ofNat 32 (s.ttb.toNat * 2 ^ 14 + va.toNat / 2 ^ 20 * 4) := by
  have ht := s.ttb.isLt
  have hv := va.isLt
  apply BitVec.eq_of_toNat_eq
  rw [State.levelOneAddr, place_or_place_toNat 14 2 _ _ (by decide) (by decide), sectionNumber_toNat,
    BitVec.toNat_ofNat]
  omega

/-! ### The entries that cover an address -/

theorem mem_tlbHits {s : State} {va : Word} {e : TlbEntry} :
    e ∈ s.tlbHits va ↔ (∃ k : Fin 32, s.tlb[k] = some e) ∧ e.covers va = true := by
  have listed : some e ∈ s.tlb.toList ↔ ∃ k : Fin 32, s.tlb[k] = some e := by
    rw [Vector.mem_toList_iff, Vector.mem_iff_getElem]
    exact ⟨fun ⟨k, hk, h⟩ => ⟨⟨k, hk⟩, h⟩, fun ⟨k, h⟩ => ⟨k.val, k.isLt, h⟩⟩
  rw [← listed]
  simp [State.tlbHits, List.mem_filterMap]

theorem tlbChoose_mem (s : State) (e : TlbEntry) (rest : List TlbEntry) : s.tlbChoose e rest ∈ e :: rest := by
  unfold State.tlbChoose
  have inRange : (Config.free .tlbChoice s.draws).toNat % (rest.length + 1) < (e :: rest).length :=
    Nat.mod_lt _ (Nat.succ_pos rest.length)
  rw [List.getD_eq_getElem _ _ inRange]
  exact List.getElem_mem inRange

/-- R162, R175: where entries cover the address one of them is used, and a free value only where there are several. -/
theorem entryFor_hit {s : State} {va : Word} (h : s.tlbHits va ≠ []) :
    ∃ e ∈ s.tlbHits va, ∃ d, s.entryFor va = .done e { s with draws := d }
      ∧ ∀ e', s.tlbHits va = [e'] → d = s.draws := by
  unfold State.entryFor
  match hits : s.tlbHits va with
  | [] => exact absurd hits h
  | [e] => exact ⟨e, List.mem_cons_self, s.draws, rfl, fun _ _ => rfl⟩
  | e :: e' :: rest => exact ⟨_, tlbChoose_mem s e (e' :: rest), _, rfl, fun _ one => by cases one⟩

theorem entryFor_miss {s : State} {va : Word} (h : s.tlbHits va = []) :
    s.entryFor va = (s.tableWalk va).andThen fun e s' => .done e (s'.tlbFill e) := by
  unfold State.entryFor
  rw [h]

/-! ### The checks -/

/-- R161: with the MMU on, an entry is found and then checked. -/
theorem translate_on {s : State} (h : s.control.m = true) (va : Word) (write : Bool) :
    s.translate va write = (s.entryFor va).andThen fun e u => u.checkedBy e va write u := by
  unfold State.translate
  rw [if_pos h]
  congr 1
  funext e u
  have four (access : BitVec 2) : access = 0#2 ∨ access = 1#2 ∨ access = 2#2 ∨ access = 3#2 := by
    revert access; decide
  unfold State.checkAccess State.checkedBy State.domainAccess
  rcases four (u.dacr.extractLsb' (2 * e.domain.toNat) 2) with access | access | access | access
  · simp [access]
  · cases permitted (e.apFor va) u.control.s u.privileged write <;> simp [access]
  · simp [access]
  · simp [access]

/-- The checks look at nothing that an access changes: the DACR, the S bit and the mode of now (R188, R190). -/
theorem checkedBy_of_frame {s u : State} (h : AccessFrame s u) (e : TlbEntry) (va : Word) (write : Bool) (t : State) :
    u.checkedBy e va write t = s.checkedBy e va write t := by
  unfold State.checkedBy State.privileged
  rw [h.dacr, h.control, h.cpsr]

/-! ### The table walk -/

/-- With nothing buffered, aborting or disturbing the bus an external read reads memory and changes nothing. -/
theorem busRead_quiet {s : State} (hb : s.writeBuffer = []) (ha : s.abortRanges = []) (ht : s.busTape = []) (pa : Word)
    (f : MemFault) : s.busRead pa f = .done (Memory.readWord s.mem pa) s := by
  have accepted : s.aborts pa = false := by simp [State.aborts, ha]
  unfold State.busRead
  rw [drainAll_nil hb]
  simp only [Access.andThen, readTransfer_idle ht, accepted]
  rfl

/-- R168, R169: a level one descriptor of type 10 ends the walk with the entry of its section. -/
theorem tableWalk_section {s t : State} {va l1 : Word} (h : s.busRead (s.levelOneAddr va) .walk1 = .done l1 t)
    (type : field l1 0 2 = 2#2) : s.tableWalk va = .done (sectionEntry l1 va) t := by
  unfold State.tableWalk
  rw [h, Access.andThen]
  simp only [type]
  rfl

/-- R172: types 00 and 11 are a translation fault of the section. -/
theorem tableWalk_invalid {s t : State} {va l1 : Word} (h : s.busRead (s.levelOneAddr va) .walk1 = .done l1 t)
    (type : field l1 0 2 = 0#2 ∨ field l1 0 2 = 3#2) :
    s.tableWalk va = .abort (.translation false (field l1 5 4)) t := by
  unfold State.tableWalk
  rw [h, Access.andThen]
  rcases type with type | type <;> simp only [type] <;> rfl

/-- R196: an external abort on the level one fetch ends the walk with no entry. -/
theorem tableWalk_aborted {s t : State} {va : Word} {f : MemFault}
    (h : s.busRead (s.levelOneAddr va) .walk1 = .abort f t) : s.tableWalk va = .abort f t := by
  unfold State.tableWalk
  rw [h]
  rfl

/-- A walk that gives an entry fills it in before the checks (R172, log entry 21). -/
theorem translate_walked {s t : State} {va : Word} {e : TlbEntry} (hm : s.control.m = true)
    (miss : s.tlbHits va = []) (walk : s.tableWalk va = .done e t) (write : Bool) :
    s.translate va write = (t.tlbFill e).checkedBy e va write (t.tlbFill e) := by
  rw [translate_on hm, entryFor_miss miss, walk]
  rfl

/-- A walk that faults leaves the TLB alone. -/
theorem translate_walkFault {s t : State} {va : Word} {f : MemFault} (hm : s.control.m = true)
    (miss : s.tlbHits va = []) (walk : s.tableWalk va = .abort f t) (write : Bool) :
    s.translate va write = .abort f t := by
  rw [translate_on hm, entryFor_miss miss, walk]
  rfl

/-! ### Sections -/

theorem sectionEntry_covers (l1 va : Word) : (sectionEntry l1 va).covers va = true :=
  beq_self_eq_true (field va 20 12)

theorem section_covers_iff {tag base : BitVec 12} {ap : BitVec 2} {dom : BitVec 4} {c b u : Bool} {va : Word} :
    TlbEntry.covers ⟨.sect tag base ap, dom, c, b, u⟩ va = true ↔ va.toNat / 2 ^ 20 = tag.toNat := by
  rw [← sectionNumber_toNat, ← BitVec.toNat_eq, eq_comm (a := field va 20 12)]
  exact beq_iff_eq (a := tag) (b := field va 20 12)

theorem section_physical_toNat {tag base : BitVec 12} {ap : BitVec 2} {dom : BitVec 4} {c b u : Bool} {va : Word} :
    (TlbEntry.physical ⟨.sect tag base ap, dom, c, b, u⟩ va).toNat = base.toNat * 2 ^ 20 + va.toNat % 2 ^ 20 := by
  unfold TlbEntry.physical
  dsimp only
  rw [place_or_place_toNat 20 0 _ _ (by decide) (by decide), field_toNat, Nat.pow_zero, Nat.div_one, Nat.one_mul,
    Nat.mul_comm]

/-- Settles O52: an entry of the TLB or the walk of level one, then the checks, whose inputs no access changes. -/
theorem sectionTranslation : Obligations.SectionTranslation := by
  intro s va write
  rw [← levelOneAddr_eq s va]
  refine ⟨fun off => translate_flat off va write, fun on ⟨k, e, held, covers⟩ => ?_, fun on miss hb ha ht => ?_,
    fun on miss hb hr raised => ?_,
    fun tag base ap dom c b u => ⟨section_covers_iff, rfl, rfl, section_physical_toNat⟩⟩
  · have hit := mem_tlbHits.2 ⟨⟨k, held⟩, covers⟩
    obtain ⟨e', used, d, found, single⟩ := entryFor_hit (List.ne_nil_of_mem hit)
    obtain ⟨⟨k', held'⟩, covers'⟩ := mem_tlbHits.1 used
    refine ⟨k', e', d, held', covers', ?_, single⟩
    rw [translate_on on, found]
    exact checkedBy_of_frame (by constructor <;> rfl) e' va write _
  · have fetched := busRead_quiet hb ha ht (s.levelOneAddr va) .walk1
    refine ⟨fun type => ⟨sectionEntry_covers _ va, ?_⟩, fun type => ?_⟩
    · rw [translate_walked on miss (tableWalk_section fetched type)]
      exact checkedBy_of_frame (by constructor <;> rfl) _ va write _
    · exact translate_walkFault on miss (tableWalk_invalid fetched type) write
  · refine translate_walkFault on miss (tableWalk_aborted ?_) write
    rw [busRead_unbuffered hb hr, if_pos raised]

end Sys2Proof.Machine
end

section
/-! The write buffer: where a write goes, the bounds that a buffered write keeps, and the abort of a buffered write. -/

namespace Sys2Proof.Machine

/-! ### Sequences of accesses taken apart -/

theorem Access.andThen_eq_done {α β : Type} {x : Access α} {k : α → State → Access β} {b : β} {t : State} :
    x.andThen k = .done b t ↔ ∃ a u, x = .done a u ∧ k a u = .done b t := by
  cases x <;> simp [Access.andThen]

theorem Access.andThen_halt {α β : Type} {x : Access α} {r : Result} (h : x = .halt r)
    (k : α → State → Access β) : x.andThen k = .halt r := by rw [h]; rfl

/-! ### Where a write goes -/

/-- The control register of now decides whether a write is buffered: no access changes it (R139, R140). -/
theorem memWrite_translated {s u : State} {va : Word} {w : BusWrite} {tr : Translated}
    (ht : s.translate va true = .done tr u) (ha : w.isWord = true → s.misaligned va = false) (swap seq : Bool) :
    let c := u.cacheWrite va tr.attr w
    s.memWrite va w swap seq =
      if s.control.w = true ∧ tr.attr.b = true ∧ swap = false then c.bufferWrite tr.pa w seq
      else c.busWrite tr.pa w swap tr.attr.externalFault := by
  intro c
  have control : c.control = s.control :=
    (((translate_obeys s va true).done ht).trans (cacheWrite_kept u va tr.attr w)).frame.control
  rw [memWrite_aligned ha, ht, Access.andThen, ← control]
  simp only [Bool.and_eq_true, Bool.not_eq_true', and_assoc]
  rfl

/-! ### External writes -/

/-- An external write that is done is a transfer without ABORT after all buffered writes (R142, R146). -/
theorem busWrite_eq_done {s t : State} {pa : Word} {w : BusWrite} {locked : Bool} {f : MemFault}
    (h : s.busWrite pa w locked f = .done () t) :
    ∃ u, s.drainAll = .done () u ∧ u.writeTransfer pa w locked = .done false t := by
  unfold State.busWrite at h
  obtain ⟨⟨⟩, u, drained, rest⟩ := Access.andThen_eq_done.1 h
  obtain ⟨aborted, v, transfer, answer⟩ := Access.andThen_eq_done.1 rest
  cases aborted with
  | true => cases answer
  | false => cases answer; exact ⟨u, drained, transfer⟩

theorem busWrite_empties {s t : State} {pa : Word} {w : BusWrite} {locked : Bool} {f : MemFault}
    (h : s.busWrite pa w locked f = .done () t) : t.writeBuffer = [] := by
  obtain ⟨u, drained, transfer⟩ := busWrite_eq_done h
  obtain ⟨-, kept, -⟩ := writeTransfer_done transfer
  rw [kept, (drainAll_done drained).1]

theorem settledMem_of_empty {s : State} (h : s.writeBuffer = []) : s.settledMem = s.mem := by
  rw [State.settledMem, h, settle]

/-! ### The bounds of the buffer -/

theorem wbRuns_drop (k : Nat) (l : List WbEntry) : wbRuns (l.drop k) ≤ wbRuns l := by
  induction k generalizing l with
  | zero => exact Nat.le_refl _
  | succ k ih =>
    cases l with
    | nil => exact Nat.le_refl _
    | cons e rest => exact (ih rest).trans (wbRuns_tail e rest)

/-- The stall takes only the oldest writes out of the buffer (R141). -/
theorem makeRoom_drops {pa : Word} {seq : Bool} {n : Nat} {s t : State}
    (h : State.makeRoom pa seq n s = .done () t) : ∃ k, t.writeBuffer = s.writeBuffer.drop k := by
  induction n generalizing s with
  | zero => cases h; exact ⟨0, rfl⟩
  | succ n ih =>
    unfold State.makeRoom at h
    split at h
    · cases h; exact ⟨0, rfl⟩
    · obtain ⟨⟨⟩, u, drained, rest⟩ := Access.andThen_eq_done.1 h
      obtain ⟨k, dropped⟩ := ih rest
      exact ⟨1 + k, by rw [dropped, drain_done drained, List.drop_drop]⟩

/-- Where there is room, one more write keeps both bounds: it opens a new run only below two of them (R140, R143). -/
theorem append_bounds {s : State} {pa : Word} {seq : Bool} (w : BusWrite) (room : s.hasRoom pa seq = true)
    (runs : wbRuns s.writeBuffer ≤ 2) :
    let buffer : List WbEntry := s.writeBuffer ++ [⟨pa, w, s.continuesRun pa seq⟩]
    buffer.length ≤ 8 ∧ wbRuns buffer ≤ 2 := by
  simp only [State.hasRoom, Bool.and_eq_true, Bool.or_eq_true, decide_eq_true_eq] at room
  obtain ⟨slot, run⟩ := room
  refine ⟨by rw [List.length_append, List.length_singleton]; exact slot, (wbRuns_append _ _).trans ?_⟩
  dsimp only
  cases continues : s.continuesRun pa seq with
  | false =>
    have below : wbRuns s.writeBuffer < 2 := by simpa [continues] using run
    simpa using below
  | true =>
    have held : s.writeBuffer.isEmpty = false := by
      cases hb : s.writeBuffer with
      | nil => simp [State.continuesRun, hb] at continues
      | cons e rest => rfl
    simpa [held] using runs

/-- R140, R141: a buffered write keeps the bounds of 8 words and 2 address runs. -/
theorem bufferWrite_bounds {s t : State} {pa : Word} {w : BusWrite} {seq : Bool} (runs : wbRuns s.writeBuffer ≤ 2)
    (h : s.bufferWrite pa w seq = .done () t) : t.writeBuffer.length ≤ 8 ∧ wbRuns t.writeBuffer ≤ 2 := by
  unfold State.bufferWrite at h
  obtain ⟨⟨⟩, u, stalled, placed⟩ := Access.andThen_eq_done.1 h
  cases placed
  obtain ⟨k, dropped⟩ := makeRoom_drops stalled
  refine append_bounds w (makeRoom_done stalled (Nat.le_refl _)) ?_
  rw [dropped]
  exact (wbRuns_drop k _).trans runs

/-! ### The abort of a buffered write -/

/-- A write transfer that no reset cuts off is done, and answers whether ABORT was raised. -/
theorem writeTransfer_noReset {s : State} (h : s.busAnswer.reset = false) (pa : Word) (w : BusWrite) (locked : Bool) :
    ∃ t, s.writeTransfer pa w locked = .done (s.aborts pa || s.busAnswer.abort) t := by
  unfold State.writeTransfer
  dsimp only
  rw [h]
  cases locked <;> exact ⟨_, rfl⟩

theorem drain_cons {s : State} {e : WbEntry} {rest : List WbEntry} (hb : s.writeBuffer = e :: rest) (n : Nat) :
    s.drain (n + 1) = (State.writeTransfer { s with writeBuffer := rest } e.addr e.write false).andThen fun aborted t =>
      if aborted then .halt (.refused .bufferedWriteAborted) else t.drain n := by
  rw [State.drain, hb]

/-- R144: the oldest buffered write is refused where ABORT is raised for it (D16, log entry 20). -/
theorem drain_aborted {s : State} {e : WbEntry} {rest : List WbEntry} (hb : s.writeBuffer = e :: rest)
    (hr : s.busAnswer.reset = false) (raised : (s.aborts e.addr || s.busAnswer.abort) = true) (n : Nat) :
    s.drain (n + 1) = .halt (.refused .bufferedWriteAborted) := by
  obtain ⟨t, transfer⟩ := writeTransfer_noReset (s := { s with writeBuffer := rest }) hr e.addr e.write false
  have answer : State.writeTransfer { s with writeBuffer := rest } e.addr e.write false = .done true t :=
    transfer.trans (congrArg (Access.done · t) raised)
  rw [drain_cons hb, answer]
  rfl

theorem drainAll_aborted {s : State} {e : WbEntry} {rest : List WbEntry} (hb : s.writeBuffer = e :: rest)
    (hr : s.busAnswer.reset = false) (raised : (s.aborts e.addr || s.busAnswer.abort) = true) :
    s.drainAll = .halt (.refused .bufferedWriteAborted) := by
  unfold State.drainAll
  rw [hb]
  exact drain_aborted hb hr raised rest.length

/-- Settles O56: the branch of the write, then what the bus and the buffer each leave, and the first buffered write that
aborts. -/
theorem bufferedWrites : Obligations.BufferedWrites := by
  refine ⟨fun s u va w swap seq tr ht ha => memWrite_translated ht ha swap seq, fun s t pa w locked f h => ?_,
    fun s t pa w seq _ runs h => ?_, fun s t pa w f h => ?_, fun s e rest hb hr raised => ?_⟩
  · have empty := busWrite_empties h
    exact ⟨empty, fun calm => settledMem_of_empty empty ▸ busWrite_settled.1 h calm⟩
  · obtain ⟨words, runs⟩ := bufferWrite_bounds runs h
    obtain ⟨newest, seen⟩ := bufferWrite_done h
    exact ⟨words, runs, newest, seen⟩
  · obtain ⟨empty, performed, read⟩ := busRead_done h
    exact ⟨empty, fun calm => ⟨performed calm, read calm⟩⟩
  · have stops := drainAll_aborted hb hr raised
    exact ⟨drain_aborted hb hr raised, fun pa f => Access.andThen_halt stops _,
      fun pa w locked f => Access.andThen_halt stops _⟩

end Sys2Proof.Machine
end

section
/-! The cache: external reads do not see it, the line that holds an address, linefetches in calm, and the update by a
write. -/

namespace Sys2Proof.Machine

/-! ### External reads and the cache -/

/-- The same access with another cache in the states it can end in. -/
def Access.withIdc {α : Type} (idc : Vector (Option IdcLine) 256) : Access α → Access α
  | .done a s => .done a { s with idc := idc }
  | .abort f s => .abort f { s with idc := idc }
  | .halt r => .halt r

theorem Access.withIdc_andThen {α β : Type} {idc : Vector (Option IdcLine) 256} {x : Access α}
    {k : α → State → Access β} (hk : ∀ a u, k a { u with idc := idc } = (k a u).withIdc idc) :
    (x.withIdc idc).andThen k = (x.andThen k).withIdc idc := by
  cases x with
  | done a s => exact hk a s
  | abort f s => rfl
  | halt r => rfl

/-- An access that does the same with the cache it finds ends with that cache. -/
theorem Access.idc_of_withIdc {α : Type} {s u : State} {x : Access α} {a : α} (same : x = x.withIdc s.idc)
    (h : x = .done a u) : u.idc = s.idc := by
  rw [h, Access.withIdc, Access.done.injEq] at same
  rw [same.2]

theorem readTransfer_withIdc (s : State) (pa : Word) (idc : Vector (Option IdcLine) 256) :
    State.readTransfer { s with idc := idc } pa = (s.readTransfer pa).withIdc idc := by
  have answer : State.busAnswer { s with idc := idc } = s.busAnswer := rfl
  unfold State.readTransfer
  dsimp only
  rw [answer]
  cases s.busAnswer.reset <;> rfl

theorem writeTransfer_withIdc (s : State) (pa : Word) (w : BusWrite) (locked : Bool)
    (idc : Vector (Option IdcLine) 256) :
    State.writeTransfer { s with idc := idc } pa w locked = (s.writeTransfer pa w locked).withIdc idc := by
  have answer : State.busAnswer { s with idc := idc } = s.busAnswer := rfl
  unfold State.writeTransfer
  dsimp only
  rw [answer]
  cases s.busAnswer.reset <;> cases locked <;> rfl

theorem drain_withIdc (n : Nat) (s : State) (idc : Vector (Option IdcLine) 256) :
    State.drain n { s with idc := idc } = (s.drain n).withIdc idc := by
  induction n generalizing s with
  | zero => rfl
  | succ n ih =>
    cases hb : s.writeBuffer with
    | nil => simp only [State.drain, hb, Access.withIdc]
    | cons e rest =>
      rw [drain_cons hb, drain_cons (s := { s with idc := idc, writeBuffer := e :: rest }) rfl,
        writeTransfer_withIdc { s with writeBuffer := rest }]
      refine Access.withIdc_andThen fun aborted u => ?_
      cases aborted with
      | true => rfl
      | false => exact ih u

/-- R132, R138: an external read neither searches nor changes the cache. -/
theorem busRead_withIdc (s : State) (pa : Word) (f : MemFault) (idc : Vector (Option IdcLine) 256) :
    State.busRead { s with idc := idc } pa f = (s.busRead pa f).withIdc idc := by
  unfold State.busRead State.drainAll
  rw [drain_withIdc]
  refine Access.withIdc_andThen fun _ u => ?_
  rw [readTransfer_withIdc]
  refine Access.withIdc_andThen fun r v => ?_
  split <;> rfl

theorem drainAll_idc {s t : State} (h : s.drainAll = .done () t) : t.idc = s.idc :=
  Access.idc_of_withIdc (drain_withIdc _ s s.idc) h

/-- The control register of now and the translation decide whether the cache serves a read (R131, R132, R138). -/
theorem readBusWord_translated {s u : State} {va : Word} {t : Translated} (ht : s.translate va false = .done t u)
    (kind : ReadKind) : s.readBusWord va kind =
      if s.control.c = true ∧ t.attr.c = true ∧ kind ≠ .swap then u.cachedRead va t
      else u.busRead t.pa t.attr.externalFault := by
  have control : u.control = s.control := ((translate_obeys s va false).done ht).frame.control
  unfold State.readBusWord
  rw [ht, Access.andThen, ← control]
  simp only [Bool.and_eq_true, bne_iff_ne, and_assoc]

/-! ### The line that holds an address -/

theorem idcFind_eq_some {s : State} {va : Word} {l : IdcLine} (h : s.idcFind va = some l) :
    (∃ i : Fin 256, s.idc[i] = some l) ∧ l.tag = lineTag va := by
  obtain ⟨o, listed, found⟩ := List.exists_of_findSome?_eq_some h
  obtain ⟨rfl, tag⟩ := Option.filter_eq_some_iff.1 found
  obtain ⟨i, hi, place⟩ := Vector.mem_iff_getElem.1 (Vector.mem_toList_iff.1 listed)
  exact ⟨⟨⟨i, hi⟩, place⟩, beq_iff_eq.1 tag⟩

theorem tag_ne_of_idcFind_eq_none {s : State} {va : Word} (h : s.idcFind va = none) {i : Fin 256} {l : IdcLine}
    (held : s.idc[i] = some l) : l.tag ≠ lineTag va := by
  have listed : some l ∈ s.idc.toList := Vector.mem_toList_iff.2 (Vector.mem_iff_getElem.2 ⟨i.val, i.isLt, held⟩)
  have passed := List.findSome?_eq_none_iff.1 h (some l) listed
  intro tag
  simp [tag] at passed

/-- A line placed in the cache where none held the address is the one that holds it. -/
theorem idcFind_idcFill {s : State} {va : Word} (h : s.idcFind va = none) {l : IdcLine} (tag : l.tag = lineTag va) :
    (s.idcFill l).idcFind va = some l := by
  have place (i : Fin 256) (l' : IdcLine) (held : (s.idcFill l).idc[i] = some l') : l' = l ∨ s.idc[i] = some l' := by
    rw [State.idcFill_idc, Fin.getElem_fin, Vector.getElem_set] at held
    split at held
    · exact Or.inl (Option.some.inj held).symm
    · exact Or.inr held
  cases found : (s.idcFill l).idcFind va with
  | none =>
    refine absurd tag (tag_ne_of_idcFind_eq_none found (i := Fin.ofNat 256 (Config.free .idcVictim s.draws).toNat) ?_)
    rw [State.idcFill_idc, Fin.getElem_fin, Vector.getElem_set_self]
  | some l' =>
    obtain ⟨⟨i, held⟩, tag'⟩ := idcFind_eq_some found
    rcases place i l' held with rfl | old
    · rfl
    · exact absurd tag' (tag_ne_of_idcFind_eq_none h old)

theorem cachedRead_hit {s : State} {va : Word} {l : IdcLine} (h : s.idcFind va = some l) (t : Translated) :
    s.cachedRead va t = .done l.data[lineIndex va] s := by
  unfold State.cachedRead
  rw [h]

theorem cachedRead_miss {s : State} {va : Word} (h : s.idcFind va = none) (t : Translated) :
    s.cachedRead va t = s.linefetch va t := by
  unfold State.cachedRead
  rw [h]

/-! ### Linefetches in calm -/

/-- What the `k`-th read of a linefetch from `base` brings: the device's word or what memory holds, and whether ABORT is
raised for it (R131, R202). -/
def State.lineWord (s : State) (base : Word) (k : Nat) : BusWord :=
  ⟨(s.busTape.getD k BusAnswer.idle).data.getD (Memory.readWord s.mem (base + BitVec.ofNat 32 (4 * k))),
    s.aborts (base + BitVec.ofNat 32 (4 * k)) || (s.busTape.getD k BusAnswer.idle).abort⟩

theorem busAnswer_drop (s : State) (k : Nat) :
    State.busAnswer { s with busTape := s.busTape.drop k } = s.busTape.getD k BusAnswer.idle := by
  have head : (s.busTape.drop k)[0]? = s.busTape[k]? := by rw [List.getElem?_drop, Nat.add_zero]
  rw [List.getD_eq_getElem?_getD, ← head]
  unfold State.busAnswer
  dsimp only
  cases s.busTape.drop k <;> rfl

theorem calm_drop {s : State} (c : s.calm) (k : Nat) : State.calm { s with busTape := s.busTape.drop k } :=
  fun a listed => c a (List.mem_of_mem_drop listed)

/-- In calm the `k`-th transfer of a linefetch takes the `k`-th answer of the bus and changes nothing else. -/
theorem readTransfer_lineWord {s : State} (c : s.calm) (base : Word) (k : Nat) :
    State.readTransfer { s with busTape := s.busTape.drop k } (base + BitVec.ofNat 32 (4 * k))
      = .done (s.lineWord base k) { s with busTape := s.busTape.drop (k + 1) } := by
  obtain ⟨dma, reset⟩ := busAnswer_calm (calm_drop c k)
  rw [readTransfer_noReset reset, dma, busAnswer_drop]
  simp only [List.tail_drop]
  rfl

theorem lineTransfers_calm {s : State} (c : s.calm) (base : Word) :
    s.lineTransfers base = .done (Vector.ofFn fun k : Fin 4 => s.lineWord base k)
      { s with busTape := s.busTape.drop 4 } := by
  have first : s.readTransfer base = .done (s.lineWord base 0) { s with busTape := s.busTape.drop 1 } := by
    simpa using readTransfer_lineWord c base 0
  unfold State.lineTransfers
  rw [first]
  simp only [Access.andThen]
  rw [readTransfer_lineWord c base 1]
  dsimp only
  rw [readTransfer_lineWord c base 2]
  dsimp only
  rw [readTransfer_lineWord c base 3]
  rfl

/-- A linefetch in calm with nothing buffered is decided by the ABORTs of its four reads (R202). -/
theorem linefetch_unbuffered {s : State} (c : s.calm) (hb : s.writeBuffer = []) (va : Word) (t : Translated) :
    let base := t.pa >>> 4 <<< 4
    let after : State := { s with busTape := s.busTape.drop 4 }
    s.linefetch va t =
      if (s.lineWord base 0).aborted then .abort t.attr.linefetchFault after
      else if (s.lineWord base 1).aborted || (s.lineWord base 2).aborted || (s.lineWord base 3).aborted then
        .halt (.refused .linefetchAborted)
      else .done (s.lineWord base (lineIndex va)).word
        (after.idcFill ⟨lineTag va, Vector.ofFn fun k : Fin 4 => (s.lineWord base k).word⟩) := by
  intro base after
  have words : (Vector.ofFn fun k : Fin 4 => s.lineWord base k).map BusWord.word
      = Vector.ofFn fun k : Fin 4 => (s.lineWord base k).word := by
    ext i hi
    simp
  unfold State.linefetch
  rw [drainAll_nil hb, Access.andThen, lineTransfers_calm c, Access.andThen, words]
  simp only [Vector.getElem_ofFn, Fin.getElem_fin]
  rfl

/-- A linefetch is the same linefetch after the buffered writes (R146). -/
theorem linefetch_drained {s u : State} (h : s.drainAll = .done () u) (va : Word) (t : Translated) :
    s.linefetch va t = u.linefetch va t := by
  unfold State.linefetch
  rw [h, drainAll_nil (drainAll_done h).1]

/-- The word of a line at which an address lies, as an address of the 16-byte block (R131). -/
theorem lineBase_or_index (pa va : Word) :
    (pa >>> 4 <<< 4 ||| (va &&& 0xC#32)) = pa >>> 4 <<< 4 + BitVec.ofNat 32 (4 * (lineIndex va).val) := by
  have block : pa >>> 4 <<< 4 = place 4 (field pa 4 28) := by
    apply BitVec.eq_of_getLsbD_eq
    intro i hi
    interval_cases i <;> simp [place, field]
  have index : va &&& 0xC#32 = place 2 (field va 2 2) := by
    apply BitVec.eq_of_getLsbD_eq
    intro i hi
    interval_cases i <;> simp [place, field]
  have hp := (field pa 4 28).isLt
  have hv := (field va 2 2).isLt
  apply BitVec.eq_of_toNat_eq
  rw [block, index, place_or_place_toNat 4 2 _ _ (by decide) (by decide), BitVec.toNat_add,
    place_toNat 4 _ (by decide), BitVec.toNat_ofNat]
  change _ = (_ + 4 * (field va 2 2).toNat % 2 ^ 32) % 2 ^ 32
  omega

/-- R131: a cacheable read in calm that misses brings the words of memory, buffered writes performed, where no device
answers, and the cache holds them after. -/
theorem cachedRead_miss_done {s u : State} {va w : Word} {t : Translated} (c : s.calm)
    (nd : ∀ a ∈ s.busTape, a.data = none) (miss : s.idcFind va = none) (h : s.cachedRead va t = .done w u) :
    let word (k : Fin 4) := Memory.readWord s.settledMem (t.pa >>> 4 <<< 4 + BitVec.ofNat 32 (4 * k.val))
    w = word (lineIndex va) ∧ u.idcFind va = some ⟨lineTag va, Vector.ofFn word⟩ := by
  intro word
  rw [cachedRead_miss miss] at h
  obtain ⟨⟨⟩, v, drained, -⟩ := Access.andThen_eq_done.1 h
  have kept := (drainAll_obeys s).done drained
  obtain ⟨empty, settled⟩ := drainAll_done drained
  have undisturbed (k : Nat) : (v.busTape.getD k BusAnswer.idle).data = none := by
    rw [List.getD_eq_getElem?_getD]
    cases found : v.busTape[k]? with
    | none => rfl
    | some a => exact nd a (kept.tape.subset (List.mem_of_getElem? found))
  have words (k : Fin 4) : (v.lineWord (t.pa >>> 4 <<< 4) k).word = word k := by
    simp only [State.lineWord, undisturbed, settled c]
    rfl
  have missed : State.idcFind { v with busTape := v.busTape.drop 4 } va = none := by
    rw [← miss]
    unfold State.idcFind
    rw [drainAll_idc drained]
  rw [linefetch_drained drained, linefetch_unbuffered (kept.calm c) empty] at h
  split at h
  · cases h
  · split at h
    · cases h
    · obtain ⟨rfl, rfl⟩ := Access.done.inj h
      refine ⟨words _, ?_⟩
      simp only [words]
      exact idcFind_idcFill missed rfl

/-! ### The update by a write -/

/-- A cached line after a write at `va`: the written word of the line that holds it (R133). -/
def updatedLine (va : Word) (w : BusWrite) (l : IdcLine) : IdcLine :=
  if l.tag = lineTag va then { l with data := l.data.set (lineIndex va) (w.onWord l.data[lineIndex va]) } else l

/-- R133: an update changes the lines one by one and fills none. -/
theorem idcUpdate_lines (s : State) (va : Word) (w : BusWrite) :
    ∃ idc : Vector (Option IdcLine) 256, s.idcUpdate va w = { s with idc := idc }
      ∧ ∀ i : Fin 256, idc[i] = (s.idc[i]).map (updatedLine va w) := by
  unfold State.idcUpdate
  cases found : s.idcFind va with
  | none =>
    refine ⟨s.idc, rfl, fun i => ?_⟩
    cases held : s.idc[i] with
    | none => rfl
    | some l => exact congrArg some (if_neg (tag_ne_of_idcFind_eq_none found held)).symm
  | some l => exact ⟨_, rfl, fun i => by simp only [Fin.getElem_fin, Vector.getElem_map]; rfl⟩

theorem cacheWrite_entry {a : Attr} (h : a.entry.isSome = true) (s : State) (va : Word) (w : BusWrite) :
    s.cacheWrite va a w = if a.u then s.idcUpdate va w else s := by
  unfold State.cacheWrite
  cases he : a.entry with
  | none => rw [he] at h; cases h
  | some e => rfl

/-- Settles O57: the branch of the read, the hit, the linefetch in calm, and the update line by line. -/
theorem cacheReadsAndWrites : Obligations.CacheReadsAndWrites := by
  refine ⟨⟨fun s u va t kind ht => readBusWord_translated ht kind, fun s u pa w f idc h => ⟨?_, ?_⟩,
    fun s va t l found => ⟨cachedRead_hit found t, (idcFind_eq_some found).2⟩, fun s u va w t c nd miss h => ?_,
    fun s va t c hb miss => ⟨fun first => ?_, fun first later => ?_⟩⟩,
    fun s va a w entry => ⟨fun off => ?_, fun on => ?_⟩⟩
  · exact Access.idc_of_withIdc (busRead_withIdc s pa f s.idc) h
  · rw [busRead_withIdc, h, Access.withIdc]
  · obtain ⟨read, held⟩ := cachedRead_miss_done c nd miss h
    refine ⟨?_, _, held, fun k => ?_⟩
    · rw [lineBase_or_index, read]
    · rw [Fin.getElem_fin, Vector.getElem_ofFn]
  · refine ⟨{ s with busTape := s.busTape.drop 4 }, ?_, rfl⟩
    rw [cachedRead_miss miss, linefetch_unbuffered c hb]
    exact if_pos first
  · rw [cachedRead_miss miss, linefetch_unbuffered c hb]
    exact (if_neg (Bool.eq_false_iff.1 first)).trans (if_pos later)
  · rw [cacheWrite_entry entry, off]
    rfl
  · obtain ⟨idc, update, lines⟩ := idcUpdate_lines s va w
    refine ⟨idc, ?_, fun i absent => ?_, fun i l held => ⟨fun other => ?_, fun same => ?_⟩⟩
    · rw [cacheWrite_entry entry, on]
      exact update
    · rw [lines, absent]
      rfl
    · rw [lines, held]
      exact congrArg some (if_neg other)
    · rw [lines, held]
      exact congrArg some (if_pos same)

end Sys2Proof.Machine
end

section
/-! Stores in any memory system: which cells a store, a swap, and a run of stores can change. -/

namespace Sys2Proof.Machine

/-- The cells that `outside` names read the same in both states, with the buffered writes performed. -/
def SameOutside (s t : State) (outside : Nat → Prop) : Prop :=
  ∀ b : Nat, outside b → Memory.read t.settledMem b = Memory.read s.settledMem b

theorem SameOutside.of_settled {s t : State} (h : t.settledMem = s.settledMem) (outside : Nat → Prop) :
    SameOutside s t outside := fun b _ => by rw [h]

/-- What a store of an item at `va` may change: its bus word where translation and the alignment check let it through,
nothing else. -/
structure ItemFrame (s t : State) (va : Word) (word : Bool) : Prop where
  stored : ∀ tr u, s.translate va true = .done tr u → SameOutside s t (outsideWord tr.pa)
  stopped : ∀ f u, s.translate va true = .abort f u → SameOutside s t fun _ => True
  misaligned : word = true → s.misaligned va = true → SameOutside s t fun _ => True

/-- A state that differs outside the memory system meets the same frame. -/
theorem ItemFrame.of_settled {s t t' : State} {va : Word} {word : Bool} (h : ItemFrame s t va word)
    (same : t'.settledMem = t.settledMem) : ItemFrame s t' va word where
  stored tr u e b out := same ▸ h.stored tr u e b out
  stopped f u e b out := same ▸ h.stopped f u e b out
  misaligned hw e b out := same ▸ h.misaligned hw e b out

/-- The states that an access ends in by itself, done or aborted. -/
def Access.Ends {α : Type} (x : Access α) (t : State) : Prop := (∃ a, x = .done a t) ∨ ∃ f, x = .abort f t

/-- A write that its translation stops is not done. -/
theorem memWrite_not_done {s t u : State} {va : Word} {w : BusWrite} {swap seq : Bool} {f : MemFault}
    (ht : s.translate va true = .abort f u) : s.memWrite va w swap seq ≠ .done () t := by
  unfold State.memWrite
  rw [ht]
  split <;> exact fun h => by cases h

/-- Every write, in any memory system, meets the frame of its item (R105, R107, R111, R120, R133, R141). -/
theorem memWrite_frame {s t : State} (c : s.calm) {va : Word} {w : BusWrite} {swap seq : Bool}
    (h : (s.memWrite va w swap seq).Ends t) : ItemFrame s t va w.isWord where
  stored tr u translated b out := by
    obtain ⟨done, aborted⟩ := memWrite_settled (t := t) (w := w) (swap := swap) (seq := seq) c translated
    have written : Memory.read (w.onMemory s.settledMem tr.pa) b = Memory.read s.settledMem b :=
      read_onMemory_outside out
    rcases h with ⟨⟨⟩, h⟩ | ⟨f, h⟩
    · rw [done h, written]
    · rcases aborted f h with e | e
      · rw [e, written]
      · rw [e]
  stopped f u translated := by
    rcases h with ⟨⟨⟩, h⟩ | ⟨g, h⟩
    · exact absurd h (memWrite_not_done translated)
    · exact SameOutside.of_settled ((memWrite_stopped translated h).settled c) _
  misaligned hw low := by
    rw [memWrite_misaligned low hw] at h
    rcases h with ⟨_, h⟩ | ⟨f, h⟩
    · cases h
    · cases h
      exact SameOutside.of_settled rfl _

/-! ### What the end of an instruction leaves -/

theorem advance_settled (s : State) : s.advance.settledMem = s.settledMem := rfl

theorem writeBack_settled (s : State) (rn : RegNum) (t : TransferAddr) :
    (s.writeBack rn t).settledMem = s.settledMem := by simp [State.settledMem]

theorem abortedBase_settled (s : State) (rn : RegNum) (t : TransferAddr) :
    (s.abortedBase rn t).settledMem = s.settledMem := by
  unfold State.abortedBase
  split
  · exact writeBack_settled s rn t
  · rfl

theorem dataAbort_settled (s : State) (f : MemFault) (va : Word) : (s.dataAbort f va).settledMem = s.settledMem := rfl

theorem blockWriteBack_settled (s : State) (wb : Option (RegNum × Word)) :
    (s.blockWriteBack wb).settledMem = s.settledMem := by cases wb <;> rfl

theorem blockWriteBack_calm {s : State} (c : s.calm) (wb : Option (RegNum × Word)) : (s.blockWriteBack wb).calm := by
  cases wb <;> exact c

theorem unlessRefused_eq_next {r : Option Refusal} {k : Result} {t : State} (h : unlessRefused r k = .next t) :
    k = .next t := by
  cases r with
  | none => exact h
  | some r => cases h

/-! ### One store and a swap -/

/-- A store of a bus write that ends in a next state meets the frame of its item. -/
theorem storeBus_frame {s t : State} (c : s.calm) {rn : RegNum} {tr : TransferAddr} {w : BusWrite}
    (h : s.storeBus rn tr w = .next t) : ItemFrame s t tr.addr w.isWord := by
  unfold State.storeBus at h
  split at h
  case h_1 u e =>
    cases h
    exact (memWrite_frame c (Or.inl ⟨_, e⟩)).of_settled ((advance_settled _).trans (writeBack_settled u rn tr))
  case h_2 f u e =>
    cases h
    exact (memWrite_frame c (Or.inr ⟨f, e⟩)).of_settled
      ((dataAbort_settled _ f _).trans (abortedBase_settled u rn tr))
  case h_3 r e =>
    subst h
    exact absurd e ((memWrite_obeys s tr.addr w false false).not_reset c)

/-- The write of a swap that ends in a next state meets the frame of its item. -/
theorem swapWrite_frame {s t : State} (c : s.calm) {rd : RegNum} {va loaded : Word} {w : BusWrite}
    (h : s.swapWrite rd va w loaded = .next t) : ItemFrame s t va w.isWord := by
  unfold State.swapWrite at h
  split at h
  case h_1 u e => cases h; exact (memWrite_frame c (Or.inl ⟨_, e⟩)).of_settled rfl
  case h_2 f u e => cases h; exact (memWrite_frame c (Or.inr ⟨f, e⟩)).of_settled (dataAbort_settled u f va)
  case h_3 r e =>
    subst h
    exact absurd e ((memWrite_obeys s va w true false).not_reset c)

/-- A swap from its read on: the write with what was read, or the data abort of the read (R441, R444). -/
def swapAfterRead {α : Type} (va : Word) (write : α → State → Result) : Access α → Result
  | .done a u => write a u
  | .abort f u => .next (u.dataAbort f va)
  | .halt r => r

/-- The frame of a swap: that of its write, in the state its read leaves, and nothing where the read aborts. -/
theorem swapAfterRead_frame {α : Type} {s t : State} (c : s.calm) {va : Word} {word : Bool} {read : Access α}
    (obeys : read.Obeys ReadKept s) {write : α → State → Result}
    (frame : ∀ a u, u.calm → write a u = .next t → ItemFrame u t va word)
    (h : swapAfterRead va write read = .next t) :
    (∀ a u, read = .done a u → ItemFrame u t va word ∧ SameOutside s u fun _ => True)
    ∧ ∀ f u, read = .abort f u → SameOutside s t fun _ => True := by
  refine ⟨?_, ?_⟩
  · rintro a u rfl
    have kept : ReadKept s u := obeys
    exact ⟨frame a u (kept.calm c) h, SameOutside.of_settled (kept.settled c) _⟩
  · rintro f u rfl
    have kept : ReadKept s u := obeys
    cases h
    exact SameOutside.of_settled ((dataAbort_settled u f va).trans (kept.settled c)) _

/-- SWP is a word read and then the write (R441). -/
theorem execSwp_afterRead {s t : State} {a : SwpArgs} (passed : condPassed a.cond s.cpsr = true)
    (h : exec (.swp a) s = .next t) :
    let va := s.readReg .base a.rn 8#32
    swapAfterRead va (fun w u => u.swapWrite a.rd va (.word (s.readReg .rm a.rm 8#32)) (rotateLoaded w va))
      (s.readWord va .swap) = .next t := by
  intro va
  have swap := unlessRefused_eq_next ((whenPassed_of_passed passed).symm.trans h)
  dsimp only at swap
  cases read : s.readWord va .swap <;> rw [read] at swap <;> exact swap

/-- SWPB is a byte read and then the write of one lane (R442). -/
theorem execSwpb_afterRead {s t : State} {a : SwpArgs} (passed : condPassed a.cond s.cpsr = true)
    (h : exec (.swpb a) s = .next t) :
    let va := s.readReg .base a.rn 8#32
    swapAfterRead va
      (fun b u => u.swapWrite a.rd va (s.byteWrite va (s.readReg .rm a.rm 8#32)) (b.setWidth 32))
      (s.readByte va .swap) = .next t := by
  intro va
  have swap := unlessRefused_eq_next ((whenPassed_of_passed passed).symm.trans h)
  dsimp only at swap
  cases read : s.readByte va .swap <;> rw [read] at swap <;> exact swap

/-! ### Runs of stores -/

/-- The cells outside the bus words of all items, each translated in the state its store is made in. -/
def outsideAll (items : List (State × Word)) (b : Nat) : Prop :=
  ∀ p ∈ items, ∀ tr u, p.1.translate p.2 true = .done tr u → outsideWord tr.pa b

/-- The first store of a run keeps the cells outside all items of the run. -/
theorem memWrite_outsideAll {s t : State} (c : s.calm) {va : Word} {w : BusWrite} {swap seq : Bool}
    (h : (s.memWrite va w swap seq).Ends t) {rest : List (State × Word)} {b : Nat}
    (out : outsideAll ((s, va) :: rest) b) : Memory.read t.settledMem b = Memory.read s.settledMem b := by
  have frame := memWrite_frame c h
  cases translated : s.translate va true with
  | done tr u => exact frame.stored tr u translated b (out _ List.mem_cons_self tr u translated)
  | abort f u => exact frame.stopped f u translated b trivial
  | halt r =>
    by_cases low : (w.isWord && s.misaligned va) = true
    · obtain ⟨word, low⟩ := Bool.and_eq_true_iff.1 low
      exact frame.misaligned word low b trivial
    · have ends : s.memWrite va w swap seq = .halt r := by
        unfold State.memWrite
        rw [if_neg low, translated, Access.andThen]
      rw [ends] at h
      rcases h with ⟨_, h⟩ | ⟨_, h⟩ <;> cases h

theorem outsideAll_tail {p : State × Word} {rest : List (State × Word)} {b : Nat} (h : outsideAll (p :: rest) b) :
    outsideAll rest b := fun q listed => h q (List.mem_cons_of_mem p listed)

/-- The first store of a run, then the others from a state that differs from its end outside the memory system. -/
theorem SameOutside.afterStore {s t u v : State} (c : s.calm) {va : Word} {w : BusWrite} {swap seq : Bool}
    (ends : (s.memWrite va w swap seq).Ends u) (same : v.settledMem = u.settledMem) {items : List (State × Word)}
    (others : SameOutside v t (outsideAll items)) : SameOutside s t (outsideAll ((s, va) :: items)) := fun b out =>
  calc Memory.read t.settledMem b
    _ = Memory.read v.settledMem b := others b (outsideAll_tail out)
    _ = Memory.read u.settledMem b := by rw [same]
    _ = Memory.read s.settledMem b := memWrite_outsideAll c ends out

theorem memWrite_calm {s u : State} (c : s.calm) {va : Word} {w : BusWrite} {swap seq : Bool}
    (ends : (s.memWrite va w swap seq).Ends u) : u.calm := by
  have obeys := memWrite_obeys s va w swap seq
  rcases ends with ⟨_, e⟩ | ⟨_, e⟩
  · exact (obeys.done e).calm c
  · exact (obeys.abort e).calm c

/-- A run of block transfers that comes to an end leaves a state with `P`; no access ends its instruction in a next
state. -/
def BlockOut.Leaves (P : State → Prop) : BlockOut → Prop
  | .done _ _ t => P t
  | .halt r => ∀ t, r ≠ .next t

/-- The run of an STM keeps every cell outside its items, whatever aborts on the way (R416, R425). -/
theorem stmTransfers_frame (user : Bool) (wb : Option (RegNum × Word)) (list : List RegNum) (addr : Word) (seq : Bool)
    (first : Option (MemFault × Word)) {s : State} (c : s.calm) :
    (stmTransfers user wb list addr seq first s).Leaves fun t =>
      SameOutside s t (outsideAll (stmStates user wb list addr seq s)) := by
  induction list generalizing wb addr seq first s with
  | nil => exact fun _ _ => rfl
  | cons r rest ih =>
    have next (first' : Option (MemFault × Word)) {v : Word} {u : State}
        (ends : (s.memWrite addr (.word v) false seq).Ends u) :
        (stmTransfers user none rest (addr + 4#32) true first' (u.blockWriteBack wb)).Leaves fun t =>
          SameOutside s t (outsideAll
            ((s, addr) :: stmStates user none rest (addr + 4#32) true (u.blockWriteBack wb))) := by
      have run := ih none (addr + 4#32) true first' (blockWriteBack_calm (memWrite_calm c ends) wb)
      cases out : stmTransfers user none rest (addr + 4#32) true first' (u.blockWriteBack wb) with
      | done w f t =>
        rw [out] at run
        exact SameOutside.afterStore c ends (blockWriteBack_settled u wb) run
      | halt o =>
        rw [out] at run
        exact run
    unfold stmTransfers stmStates
    dsimp only
    generalize (if user then s.readUserReg r 12#32 else s.readReg .listed r 12#32) = v
    cases e : s.memWrite addr (.word v) false seq with
    | done _ u => exact next _ (Or.inl ⟨_, e⟩)
    | abort f u => exact next _ (Or.inr ⟨f, e⟩)
    | halt o => exact fun t h => (memWrite_obeys s addr (.word v) false seq).not_reset c (h ▸ e)

/-- The same for the transfers of an LDC or STC. -/
def CoprocOut.Leaves (P : State → Prop) : CoprocOut → Prop
  | .done _ t => P t
  | .halt r => ∀ t, r ≠ .next t

/-- The run of an STC keeps every cell outside its items; it stops at the first abort (R467, R469). -/
theorem stcTransfers_frame (supplied : Nat → Word) (n k : Nat) (addr : Word) {s : State} (c : s.calm) :
    (stcTransfers supplied n k addr s).Leaves fun t =>
      SameOutside s t (outsideAll (stcStates supplied n k addr s)) := by
  induction n generalizing k addr s with
  | zero => exact fun _ _ => rfl
  | succ n ih =>
    unfold stcTransfers stcStates
    cases e : s.memWrite addr (.word (supplied k)) false (decide (0 < k)) with
    | done _ u =>
      have ends : (s.memWrite addr (.word (supplied k)) false (decide (0 < k))).Ends u := Or.inl ⟨_, e⟩
      have run := ih (k + 1) (addr + 4#32) (memWrite_calm c ends)
      dsimp only
      cases out : stcTransfers supplied n (k + 1) (addr + 4#32) u with
      | done f t =>
        rw [out] at run
        exact SameOutside.afterStore c ends rfl run
      | halt o =>
        rw [out] at run
        exact run
    | abort f u => exact SameOutside.afterStore c (Or.inr ⟨f, e⟩) rfl fun _ _ => rfl
    | halt o => exact fun t h => (memWrite_obeys s addr _ false _).not_reset c (h ▸ e)

/-! ### The instructions that store -/

theorem whenPassed_eq_next {c : Cond} {s t : State} {k : Result} (h : whenPassed c s k = .next t) :
    t = s.advance ∨ k = .next t := by
  unfold whenPassed at h
  split at h
  · exact Or.inr h
  · cases h
    exact Or.inl rfl

theorem enterUndefined_settled (s : State) : s.enterUndefined.settledMem = s.settledMem := by
  simp [State.settledMem, State.enterUndefined]

theorem nextAnswer_accept {s : State} {n : Nat} {data : List Word} (h : s.nextAnswer = .accept n data) :
    ∃ rest, s.coprocTape = .accept n data :: rest := by
  unfold State.nextAnswer at h
  split at h
  case h_1 => cases h
  case h_2 a rest tape => exact ⟨rest, h ▸ tape⟩

/-- A handshake that ends in a next state touched no memory, or a coprocessor accepted (R461, R462). -/
theorem handshake_eq_next {s t : State} {w : Word} {accepted : Nat → List Word → State → Result}
    (h : s.handshake w accepted = .next t) :
    t.settledMem = s.settledMem
    ∨ ∃ n data rest, s.coprocTape = .accept n data :: rest ∧ accepted n data s.popAnswer = .next t := by
  unfold State.handshake at h
  split at h
  case h_1 => cases h; exact Or.inl (enterUndefined_settled s.popAnswer)
  case h_2 => cases h; exact Or.inl rfl
  case h_3 => cases h; exact Or.inl rfl
  case h_4 n data answer =>
    obtain ⟨rest, tape⟩ := nextAnswer_accept answer
    exact Or.inr ⟨n, data, rest, tape, h⟩

theorem endCdt_settled {s t : State} {rn : RegNum} {tr : TransferAddr} {abort : Option (MemFault × Word)}
    (h : s.endCdt rn tr abort = .next t) : t.settledMem = s.settledMem := by
  cases abort with
  | none => cases h; exact (advance_settled _).trans (writeBack_settled s rn tr)
  | some f => cases h; exact (dataAbort_settled _ f.1 f.2).trans (writeBack_settled s rn tr)

theorem SameOutside.trans_settled {s u t : State} {outside : Nat → Prop} (h : SameOutside s u outside)
    (same : t.settledMem = u.settledMem) : SameOutside s t outside := fun b out => by rw [same, h b out]

/-- STR and STRB in both offset forms (R386, R387). -/
theorem exec_store_frame {s t : State} (c : s.calm) {i : Instr} {va : Word} {word : Bool}
    (passed : condPassed (instrCond i) s.cpsr = true)
    (form : (∃ a, i = (if word then .strImm a else .strbImm a) ∧ va = (s.sdtAddrImm a).addr)
      ∨ (∃ a, i = (if word then .strReg a else .strbReg a) ∧ va = (s.sdtAddrReg a).addr))
    (h : exec i s = .next t) : ItemFrame s t va word := by
  obtain ⟨a, rfl, rfl⟩ | ⟨a, rfl, rfl⟩ := form
  · cases word with
    | true => exact storeBus_frame c (unlessRefused_eq_next ((exec_storeImm false passed).symm.trans h))
    | false => exact storeBus_frame c (unlessRefused_eq_next ((exec_storeImm true passed).symm.trans h))
  · cases word with
    | true => exact storeBus_frame c (unlessRefused_eq_next ((exec_storeReg false passed).symm.trans h))
    | false => exact storeBus_frame c (unlessRefused_eq_next ((exec_storeReg true passed).symm.trans h))

theorem execStm_frame {s t : State} (c : s.calm) {a : Bdt} (h : exec (.stm a) s = .next t) :
    SameOutside s t (outsideAll (s.stmItems a)) := by
  rcases whenPassed_eq_next h with rfl | run
  · exact SameOutside.of_settled (advance_settled s) _
  · have frame := stmTransfers_frame (bdtUserBank a false) (if a.w then some (a.rn, (s.bdtSpan a).2) else none)
      (regList a.list) (s.bdtSpan a).1 false none c
    have bank : bdtUserBank a false = a.s := by simp [bdtUserBank]
    have transfers := unlessRefused_eq_next run
    dsimp only at transfers
    split at transfers
    case h_1 r out =>
      rw [out] at frame
      exact absurd transfers (frame t)
    case h_2 f va u out =>
      rw [out, bank] at frame
      cases transfers
      exact SameOutside.trans_settled frame (dataAbort_settled u f va)
    case h_3 u out =>
      rw [out, bank] at frame
      cases transfers
      exact SameOutside.trans_settled frame (advance_settled u)

theorem execStc_frame {s t : State} (c : s.calm) {a : Cdt} (h : exec (.stc a) s = .next t) :
    SameOutside s t (outsideAll (s.stcItems a)) := by
  rcases whenPassed_eq_next h with rfl | run
  · exact SameOutside.of_settled (advance_settled s) _
  · split at run
    · cases run
      exact SameOutside.of_settled (enterUndefined_settled s) _
    · rcases handshake_eq_next (unlessRefused_eq_next run) with same | ⟨n, data, rest, tape, accepted⟩
      · exact SameOutside.of_settled same _
      · have items : s.stcItems a = stcStates (s.popAnswer.suppliedWord data) (wordCount n) 0
            (s.popAnswer.cdtAddr a).addr (s.popAnswer.sendCoproc (encode (.stc a)) []) := by
          unfold State.stcItems
          rw [tape]
          rfl
        have frame := stcTransfers_frame (s.popAnswer.suppliedWord data) (wordCount n) 0 (s.popAnswer.cdtAddr a).addr
          (s := s.popAnswer.sendCoproc (encode (.stc a)) []) c
        rw [← items] at frame
        dsimp only at accepted
        split at accepted
        case h_1 r out =>
          rw [out] at frame
          exact absurd accepted (frame t)
        case h_2 abort u out =>
          rw [out] at frame
          have transfers : SameOutside s u (outsideAll (s.stcItems a)) := frame
          exact transfers.trans_settled (endCdt_settled accepted)

theorem ItemFrame.parts {s t : State} {va : Word} {word : Bool} (h : ItemFrame s t va word) :
    (∀ tr u, s.translate va true = .done tr u → SameOutside s t (outsideWord tr.pa))
    ∧ (∀ f u, s.translate va true = .abort f u → SameOutside s t fun _ => True)
    ∧ (word = true → s.misaligned va = true → SameOutside s t fun _ => True) :=
  ⟨h.stored, h.stopped, h.misaligned⟩

/-- Settles O26: the frame of one write, carried through the store, the swap and the runs of STM and STC. -/
theorem storesReachOnlyTheirWord : Obligations.StoresReachOnlyTheirWord := by
  intro s c
  refine ⟨fun t va w swap seq ends => ?_, fun i t va word passed form h => (exec_store_frame c passed form h).parts,
    fun a t passed => ⟨fun h => ?_, fun h => ?_⟩, fun a t h => execStm_frame c h, fun a t h => execStc_frame c h⟩
  · exact (memWrite_frame c (ends.imp (fun done => ⟨(), done⟩) id)).parts
  · obtain ⟨done, aborted⟩ := swapAfterRead_frame c (readWord_obeys s _ .swap)
      (fun w u calm write => swapWrite_frame calm write) (execSwp_afterRead passed h)
    exact ⟨fun w u read => ⟨(done w u read).1.parts, (done w u read).2⟩, aborted⟩
  · obtain ⟨done, aborted⟩ := swapAfterRead_frame c (readByte_obeys s _ .swap)
      (fun b u calm write => swapWrite_frame calm write) (execSwpb_afterRead passed h)
    exact ⟨fun b u read => ⟨(done b u read).1.parts, (done b u read).2⟩, aborted⟩

end Sys2Proof.Machine
end

section
/-! Faults and permissions as tables, and the table walk through level two: the entries of pages, their faults, and what a
page entry says of an address. -/

namespace Sys2Proof.Machine

/-! ### The permission table and the fault status -/

/-- Settles O54: the rows of the table of R190, each as a condition on the other three inputs. -/
theorem accessPermissions : Obligations.AccessPermissions := by
  intro sBit privileged write
  refine ⟨?_, Iff.rfl, ?_, rfl⟩
  · simp [permitted, and_assoc]
  · simp [permitted]

/-- The parts of a status under a domain are one field of four bits. -/
theorem domain_append_status (d : BitVec 4) (kind : BitVec 2) (page odd : BitVec 1) :
    d ++ kind ++ page ++ odd = d ++ (kind ++ page ++ odd) := by
  apply BitVec.eq_of_toNat_eq
  simp only [BitVec.toNat_append, Nat.shiftLeft_or_distrib, ← Nat.shiftLeft_add, Nat.or_assoc]

theorem status_kind (top : BitVec 4) (kind : BitVec 2) (free low : BitVec 1) :
    (top ++ kind ++ free ++ low).extractLsb' 2 2 = kind := by
  rw [BitVec.extractLsb'_append_eq_of_le (by decide), BitVec.extractLsb'_append_eq_of_le (by decide)]
  exact BitVec.extractLsb'_append_eq_right

theorem status_low (top : BitVec 4) (kind : BitVec 2) (free low : BitVec 1) :
    (top ++ kind ++ free ++ low).getLsbD 0 = low.getLsbD 0 := BitVec.getLsbD_append

/-- Settles O55: a fault with a domain has it over its status; of the others only the fields that the spec names are
said. -/
theorem faultStatusCodes : Obligations.FaultStatusCodes := by
  intro d x
  have status := domain_append_status d
  refine ⟨status_kind _ _ _ _, status_low _ _ _ _, ?_, rfl, status _ _ _, status _ _ _, status _ _ _, status _ _ _,
    status _ _ _, status _ _ _, status _ _ _, status _ _ _, status _ _ _, status _ _ _, status_kind _ _ _ _,
    status_low _ _ _ _⟩
  unfold MemFault.fsr
  rw [BitVec.extractLsb'_append_eq_left]

/-! ### Page addresses -/

/-- A field that reaches the top of a word is a quotient. -/
theorem topField_toNat {w : Word} {lo len : Nat} (top : lo + len = 32) : (field w lo len).toNat = w.toNat / 2 ^ lo := by
  have bound : w.toNat / 2 ^ lo < 2 ^ len := by
    rw [Nat.div_lt_iff_lt_mul (Nat.two_pow_pos lo), ← Nat.pow_add, Nat.add_comm, top]
    exact w.isLt
  rw [field_toNat, Nat.mod_eq_of_lt bound]

/-- R170: the level two descriptor is a word of the table that the level one descriptor names. -/
theorem levelTwoAddr_eq (l1 va : Word) :
    levelTwoAddr l1 va = BitVec.ofNat 32 (l1.toNat / 2 ^ 10 * 2 ^ 10 + va.toNat / 2 ^ 12 % 2 ^ 8 * 4) := by
  have hl := l1.isLt
  apply BitVec.eq_of_toNat_eq
  rw [levelTwoAddr, place_or_place_toNat 10 2 _ _ (by decide) (by decide), topField_toNat (by decide), field_toNat,
    BitVec.toNat_ofNat]
  omega

/-- A tag at the top of an address covers the addresses with that quotient. -/
theorem tag_beq_iff {va : Word} {lo len : Nat} {tag : BitVec len} (top : lo + len = 32) :
    (tag == field va lo len) = true ↔ va.toNat / 2 ^ lo = tag.toNat := by
  rw [← topField_toNat top, ← BitVec.toNat_eq, eq_comm (a := field va lo len)]
  exact beq_iff_eq

/-- A base over the low part of an address. -/
theorem base_or_offset_toNat {va : Word} {lo len : Nat} (base : BitVec len) (top : lo + len = 32) :
    (place lo base ||| place 0 (field va 0 lo)).toNat = base.toNat * 2 ^ lo + va.toNat % 2 ^ lo := by
  rw [place_or_place_toNat lo 0 _ _ (by omega) top.le, field_toNat, Nat.pow_zero, Nat.div_one, Nat.one_mul, Nat.mul_comm]

/-! ### Level two of the walk -/

/-- R171 (log entry 7): whichever order holds, C is the descriptor bit that it names. -/
theorem pageC_eq (l2 : Word) : pageC l2 = if Config.pteCbAsPrinted then l2.getLsbD 2 else l2.getLsbD 3 := by
  unfold pageC
  split_ifs with same printed
  · rfl
  · exact same
  · rfl
  · rfl

/-- The same for B. -/
theorem pageB_eq (l2 : Word) : pageB l2 = if Config.pteCbAsPrinted then l2.getLsbD 3 else l2.getLsbD 2 := by
  unfold pageB
  split_ifs with same printed
  · exact same
  · rfl
  · rfl
  · rfl

/-- R202: an external read that is one transfer, where ABORT is not raised for it. -/
theorem busRead_accepted {s : State} {pa : Word} (hb : s.writeBuffer = []) (hr : s.busAnswer.reset = false)
    (quiet : (s.aborts pa || s.busAnswer.abort) = false) (f : MemFault) : s.busRead pa f =
      .done (s.busAnswer.data.getD (Memory.readWord (applyDma s.busAnswer.dma s.mem) pa))
        { s with busTape := s.busTape.tail, mem := applyDma s.busAnswer.dma s.mem } :=
  (busRead_unbuffered hb hr pa f).trans (if_neg (ne_true_of_eq_false quiet))

/-- The same where it is raised. -/
theorem busRead_refused {s : State} {pa : Word} (hb : s.writeBuffer = []) (hr : s.busAnswer.reset = false)
    (raised : (s.aborts pa || s.busAnswer.abort) = true) (f : MemFault) : s.busRead pa f =
      .abort f { s with busTape := s.busTape.tail, mem := applyDma s.busAnswer.dma s.mem } :=
  (busRead_unbuffered hb hr pa f).trans (if_pos raised)

/-- R167: a level one descriptor of type 01 leads to level two. -/
theorem tableWalk_page {s t : State} {va l1 : Word} (h : s.busRead (s.levelOneAddr va) .walk1 = .done l1 t)
    (type : field l1 0 2 = 1#2) {l2 : Word} {u : State}
    (h2 : t.busRead (levelTwoAddr l1 va) (.walk2 (field l1 5 4)) = .done l2 u) :
    (field l2 0 2 = 1#2 → s.tableWalk va = .done (largeEntry l1 l2 va) u)
    ∧ (field l2 0 2 = 2#2 → s.tableWalk va = .done (smallEntry l1 l2 va) u)
    ∧ (field l2 0 2 = 0#2 ∨ field l2 0 2 = 3#2 → s.tableWalk va = .abort (.translation true (field l1 5 4)) u) := by
  unfold State.tableWalk
  rw [h, Access.andThen]
  simp only [type]
  refine ⟨fun large => ?_, fun small => ?_, fun invalid => ?_⟩
  · simp only [h2, Access.andThen, large]
    rfl
  · simp only [h2, Access.andThen, small]
    rfl
  · rcases invalid with invalid | invalid <;> simp only [h2, Access.andThen, invalid] <;> rfl

/-- R196: an external abort on the level two fetch ends the walk with no entry. -/
theorem tableWalk_pageAborted {s t : State} {va l1 : Word} (h : s.busRead (s.levelOneAddr va) .walk1 = .done l1 t)
    (type : field l1 0 2 = 1#2) {f : MemFault} {u : State}
    (h2 : t.busRead (levelTwoAddr l1 va) (.walk2 (field l1 5 4)) = .abort f u) : s.tableWalk va = .abort f u := by
  unfold State.tableWalk
  rw [h, Access.andThen]
  simp only [type, h2, Access.andThen]
  rfl

theorem largeEntry_covers (l1 l2 va : Word) : (largeEntry l1 l2 va).covers va = true :=
  beq_self_eq_true (field va 16 16)

theorem smallEntry_covers (l1 l2 va : Word) : (smallEntry l1 l2 va).covers va = true :=
  beq_self_eq_true (field va 12 20)

/-- Settles O53: the second fetch ends the walk with the entry of its page or with a fault, and the entry is filled in
before the checks. -/
theorem pageTranslation : Obligations.PageTranslation := by
  intro s va write
  rw [← levelOneAddr_eq s va]
  refine ⟨?_, ?_,
    fun tag base ap dom c b u => ⟨tag_beq_iff rfl, rfl, ?_, base_or_offset_toNat base rfl⟩,
    fun tag base ap dom c b u => ⟨tag_beq_iff rfl, rfl, ?_, base_or_offset_toNat base rfl⟩⟩
  · intro on miss hb ha ht l1 l2 gives table
    have first := busRead_quiet hb ha ht (s.levelOneAddr va) .walk1
    have second : s.busRead (levelTwoAddr l1 va) (.walk2 (field l1 5 4)) = .done l2 s := by
      rw [levelTwoAddr_eq]
      exact busRead_quiet hb ha ht _ _
    obtain ⟨large, small, invalid⟩ := tableWalk_page first table second
    have filled {e : TlbEntry} (walk : s.tableWalk va = .done e s) : s.translate va write =
        s.checkedBy e va write { s with tlb := s.tlb.set s.tlbNext (some e), tlbNext := s.tlbNext + 1 } := by
      rw [translate_walked on miss walk]
      exact checkedBy_of_frame (by constructor <;> rfl) e va write _
    refine ⟨fun type => ?_, fun type => ?_, fun type => translate_walkFault on miss (invalid type) write⟩
    · exact ⟨_, rfl, rfl, rfl, largeEntry_covers l1 l2 va, pageC_eq l2, pageB_eq l2, filled (large type)⟩
    · exact ⟨_, rfl, rfl, rfl, smallEntry_covers l1 l2 va, pageC_eq l2, pageB_eq l2, filled (small type)⟩
  · intro on miss hb l1Addr s1 l1 l2Addr hr quiet table hr1 raised
    have first : s.busRead (s.levelOneAddr va) .walk1 = .done l1 s1 := busRead_accepted hb hr quiet .walk1
    refine translate_walkFault on miss (tableWalk_pageAborted first table ?_) write
    rw [levelTwoAddr_eq]
    exact busRead_refused (s := s1) hb hr1 raised _
  · exact congrArg (fun quarter => ap.extractLsb' (2 * quarter) 2) (field_toNat va 14 2)
  · exact congrArg (fun quarter => ap.extractLsb' (2 * quarter) 2) (field_toNat va 10 2)

end Sys2Proof.Machine
end

section
/-! Data aborts: what the entry leaves, and the end of a load, a store and a swap whose access aborts. -/

namespace Sys2Proof.Machine

/-! ### The data abort -/

/-- R201, R511, R525: a data abort leaves what `AbortTaken` says, with a free value for the open bits of the FSR. -/
theorem dataAbort_taken (u : State) (f : MemFault) (va : Word) : AbortTaken u u.regs f va (u.dataAbort f va) := by
  refine ⟨Config.free .fsrUndefined u.draws, ?_⟩
  unfold State.dataAbort State.enterDataAbort State.enter
  rw [Bool.or_false]
  rfl

/-- A data abort after an access from `s`: the registers are those of before the access. -/
theorem dataAbort_taken_of_frame {s u : State} (h : AccessFrame s u) (f : MemFault) (va : Word) :
    AbortTaken u s.regs f va (u.dataAbort f va) := h.regs ▸ dataAbort_taken u f va

theorem writeBack_eq (s : State) (rn : RegNum) (t : TransferAddr) :
    s.writeBack rn t = { s with regs := s.movedBase rn t } := by
  unfold State.writeBack State.movedBase
  split <;> rfl

/-- R392: the base moves only in the late abort configuration. -/
theorem abortedBase_eq (s : State) (rn : RegNum) (t : TransferAddr) :
    s.abortedBase rn t = { s with regs := if s.control.l then s.movedBase rn t else s.regs } := by
  unfold State.abortedBase
  rw [writeBack_eq]
  split <;> rfl

theorem movedBase_of_frame {s u : State} (h : AccessFrame s u) (rn : RegNum) (t : TransferAddr) :
    u.movedBase rn t = s.movedBase rn t := by
  simp only [State.movedBase, h.regs, h.cpsr]

/-- The data abort of a single transfer whose access began in `s`. -/
theorem abortedBase_dataAbort_taken {s u : State} (h : AccessFrame s u) (rn : RegNum) (t : TransferAddr) (f : MemFault)
    (va : Word) : AbortTaken u (if s.control.l then s.movedBase rn t else s.regs) f va
      ((u.abortedBase rn t).dataAbort f va) := by
  have base : (if s.control.l then s.movedBase rn t else s.regs) = if u.control.l then u.movedBase rn t else u.regs := by
    rw [movedBase_of_frame h, h.control, h.regs]
  rw [base, abortedBase_eq]
  exact dataAbort_taken { u with regs := if u.control.l then u.movedBase rn t else u.regs } f va

/-! ### Single transfers -/

/-- An instruction whose condition passes and whose operands are not refused does what it stands for. -/
theorem whenPassed_unlessRefused {c : Cond} {s : State} {r : Option Refusal} {k : Result}
    (passed : condPassed c s.cpsr = true) (allowed : r = none) : whenPassed c s (unlessRefused r k) = k := by
  rw [whenPassed_of_passed passed, allowed]
  rfl

/-- An aborted single transfer ends in the data abort, with the base as the configuration has it (R392). -/
def AbortedTransfer (s u : State) (rn : RegNum) (t : TransferAddr) (f : MemFault) (r : Result) : Prop :=
  AccessFrame s u ∧ r = .next ((u.abortedBase rn t).dataAbort f t.addr)

theorem loadWord_aborted {s u : State} {t : TransferAddr} {f : MemFault} (e : s.readWord t.addr .data = .abort f u)
    (rn rd : RegNum) : AbortedTransfer s u rn t f (s.loadWord rn rd t) := by
  refine ⟨((readWord_obeys s _ _).abort e).frame, ?_⟩
  unfold State.loadWord
  rw [e]

theorem loadByte_aborted {s u : State} {t : TransferAddr} {f : MemFault} (e : s.readByte t.addr .data = .abort f u)
    (rn rd : RegNum) : AbortedTransfer s u rn t f (s.loadByte rn rd t) := by
  refine ⟨((readByte_obeys s _ _).abort e).frame, ?_⟩
  unfold State.loadByte
  rw [e]

theorem storeBus_aborted {s u : State} {t : TransferAddr} {w : BusWrite} {f : MemFault}
    (e : s.memWrite t.addr w false false = .abort f u) (rn : RegNum) :
    AbortedTransfer s u rn t f (s.storeBus rn t w) := by
  refine ⟨((memWrite_obeys s _ _ _ _).abort e).frame, ?_⟩
  unfold State.storeBus
  rw [e]

/-- What is so of a transfer is so of the instruction that comes down to it. -/
theorem AbortedTransfer.of_eq {s u : State} {rn : RegNum} {t : TransferAddr} {f : MemFault} {r r' : Result}
    (h : AbortedTransfer s u rn t f r) (e : r' = r) : AbortedTransfer s u rn t f r' := e ▸ h

/-! ### Swaps -/

theorem pcRefusal_swap {a : SwpArgs} (hd : a.rd ≠ 15#4) (hm : a.rm ≠ 15#4) (hn : a.rn ≠ 15#4) :
    pcRefusal (a.rd == 15#4 || a.rm == 15#4 || a.rn == 15#4) = none := by
  simp [pcRefusal, hd, hm, hn]

/-- R441: SWP is its read and then its write. -/
theorem exec_swp_eq {s : State} {a : SwpArgs} (passed : condPassed a.cond s.cpsr = true)
    (hd : a.rd ≠ 15#4) (hm : a.rm ≠ 15#4) (hn : a.rn ≠ 15#4) :
    let va := s.readReg .base a.rn 8#32
    exec (.swp a) s = swapAfterRead va
      (fun w u => u.swapWrite a.rd va (.word (s.readReg .rm a.rm 8#32)) (rotateLoaded w va)) (s.readWord va .swap) := by
  intro va
  refine (whenPassed_unlessRefused passed (pcRefusal_swap hd hm hn)).trans ?_
  dsimp only
  cases s.readWord va .swap <;> rfl

/-- R442: SWPB likewise, with one byte. -/
theorem exec_swpb_eq {s : State} {a : SwpArgs} (passed : condPassed a.cond s.cpsr = true)
    (hd : a.rd ≠ 15#4) (hm : a.rm ≠ 15#4) (hn : a.rn ≠ 15#4) :
    let va := s.readReg .base a.rn 8#32
    exec (.swpb a) s = swapAfterRead va
      (fun b u => u.swapWrite a.rd va (s.byteWrite va (s.readReg .rm a.rm 8#32)) (b.setWidth 32))
      (s.readByte va .swap) := by
  intro va
  refine (whenPassed_unlessRefused passed (pcRefusal_swap hd hm hn)).trans ?_
  dsimp only
  cases s.readByte va .swap <;> rfl

/-- R444: an aborted read of a swap ends it in the data abort, and memory as the processor sees it stays. -/
theorem swapAfterRead_readAborted {α : Type} {s u : State} {va : Word} {read : Access α} {f : MemFault}
    (obeys : read.Obeys ReadKept s) (e : read = .abort f u) (write : α → State → Result) :
    (s.calm → u.settledMem = s.settledMem)
    ∧ ∃ t, swapAfterRead va write read = .next t ∧ AbortTaken u s.regs f va t := by
  have kept := obeys.abort e
  rw [e]
  exact ⟨kept.settled, _, rfl, dataAbort_taken_of_frame kept.frame f va⟩

/-- R444: an aborted write of a swap ends it in the data abort with Rd as it was. -/
theorem swapWrite_aborted {s u : State} {va : Word} {w : BusWrite} {f : MemFault}
    (e : s.memWrite va w true false = .abort f u) (rd : RegNum) (loaded : Word) :
    ∃ t, s.swapWrite rd va w loaded = .next t ∧ AbortTaken u s.regs f va t := by
  refine ⟨_, ?_, dataAbort_taken_of_frame ((memWrite_obeys s va w true false).abort e).frame f va⟩
  unfold State.swapWrite
  rw [e]

/-- The same from the state in which the read was made. -/
theorem swapAfterRead_writeAborted {α : Type} {s s' u : State} {va loaded : Word} {read : Access α} {v : α}
    {rd : RegNum} {w : BusWrite} {f : MemFault} (obeys : read.Obeys ReadKept s) (done : read = .done v s')
    {write : α → State → Result} (writes : write v s' = s'.swapWrite rd va w loaded)
    (e : s'.memWrite va w true false = .abort f u) :
    ∃ t, swapAfterRead va write read = .next t ∧ AbortTaken u s.regs f va t := by
  rw [done, swapAfterRead, writes, ← (obeys.done done).frame.regs]
  exact swapWrite_aborted e rd loaded

/-- Settles O31: every form of the four single transfers comes down to its one access, and a swap to its read and its
write. -/
theorem abortedTransfers : Obligations.AbortedTransfers := by
  refine ⟨fun s u f i rn tr passed form => ?_, fun s u a f passed hd hm hn => ?_⟩
  · have ended : AbortedTransfer s u rn tr f (exec i s) := by
      obtain ⟨a, allowed, rfl, rfl, form⟩ | ⟨a, allowed, rfl, rfl, form⟩ := form
      all_goals obtain ⟨rfl, e⟩ | ⟨rfl, e⟩ | ⟨rfl, e⟩ | ⟨rfl, e⟩ := form
      all_goals refine AbortedTransfer.of_eq ?_ (whenPassed_unlessRefused passed allowed)
      · exact loadWord_aborted e a.rn a.rd
      · exact loadByte_aborted e a.rn a.rd
      · exact storeBus_aborted e a.rn
      · exact storeBus_aborted e a.rn
      · exact loadWord_aborted e a.rn a.rd
      · exact loadByte_aborted e a.rn a.rd
      · exact storeBus_aborted e a.rn
      · exact storeBus_aborted e a.rn
    obtain ⟨frame, taken⟩ := ended
    exact ⟨frame, _, taken, abortedBase_dataAbort_taken frame rn tr f tr.addr⟩
  · intro va
    have word := readWord_obeys s va .swap
    have byte := readByte_obeys s va .swap
    rw [exec_swp_eq passed hd hm hn, exec_swpb_eq passed hd hm hn]
    exact ⟨fun e => swapAfterRead_readAborted word e _, fun e => swapAfterRead_readAborted byte e _,
      fun w s' read e => swapAfterRead_writeAborted word read rfl e,
      fun b s' read e => swapAfterRead_writeAborted byte read rfl e⟩

end Sys2Proof.Machine
end

section
/-! Block transfers with the MMU off of which some slots answer ABORT: the slots of a register list, the first of them
that aborts, and the runs of LDM and STM. -/

namespace Sys2Proof.Machine

/-! ### The slots of a register list -/

/-- The slots of a run of block transfers from an address on: each register with the address at which it is moved
(R411, R415, R416). -/
def slots : List RegNum → Word → List (RegNum × Word)
  | [], _ => []
  | r :: rest, addr => (r, addr) :: slots rest (addr + 4#32)

theorem slots_append (l l' : List RegNum) (addr : Word) :
    slots (l ++ l') addr = slots l addr ++ slots l' (addr + BitVec.ofNat 32 (4 * l.length)) := by
  induction l generalizing addr with
  | nil => simp [slots]
  | cons r rest ih =>
    have next : addr + 4#32 + BitVec.ofNat 32 (4 * rest.length) = addr + BitVec.ofNat 32 (4 * (r :: rest).length) := by
      rw [BitVec.add_assoc, List.length_cons, Nat.mul_succ, Nat.add_comm, BitVec.ofNat_add]
    rw [List.cons_append, slots, slots, ih, next, List.cons_append]

/-- The registers below R`n` that a list names, in ascending order. -/
def regsBelow (list : BitVec 16) (n : Nat) : List RegNum :=
  ((List.range n).filter fun i => list.getLsbD i).map fun i => BitVec.ofNat 4 i

theorem regsBelow_sixteen (list : BitVec 16) : regsBelow list 16 = regList list := rfl

theorem regsBelow_succ (list : BitVec 16) (n : Nat) :
    regsBelow list (n + 1) = regsBelow list n ++ if list.getLsbD n then [BitVec.ofNat 4 n] else [] := by
  unfold regsBelow
  rw [List.range_succ, List.filter_append, List.map_append]
  cases named : list.getLsbD n <;> simp [named]

/-- The slot of R`n` comes after those of the registers below it. -/
theorem slotAddr_ofNat (first : Word) (list : BitVec 16) {n : Nat} (h : n < 16) :
    slotAddr first list (BitVec.ofNat 4 n) = first + BitVec.ofNat 32 (4 * (regsBelow list n).length) := by
  rw [slotAddr, listRank, regsBelow, List.length_map, BitVec.toNat_ofNat, Nat.mod_eq_of_lt h]

theorem slots_regsBelow (list : BitVec 16) (first : Word) {n : Nat} (h : n ≤ 16) :
    slots (regsBelow list n) first = (regsBelow list n).map fun r => (r, slotAddr first list r) := by
  induction n with
  | zero => rfl
  | succ n ih =>
    rw [regsBelow_succ, slots_append, ih (Nat.le_of_succ_le h), List.map_append, ← slotAddr_ofNat first list h]
    split <;> rfl

/-- R411: a run over a list moves each register at its slot. -/
theorem slots_regList (list : BitVec 16) (first : Word) :
    slots (regList list) first = (regList list).map fun r => (r, slotAddr first list r) := by
  rw [← regsBelow_sixteen]
  exact slots_regsBelow list first le_rfl

theorem mem_regList {list : BitVec 16} {r : RegNum} : r ∈ regList list ↔ list.getLsbD r.toNat = true := by
  unfold regList
  simp only [List.mem_map, List.mem_filter, List.mem_range]
  constructor
  · rintro ⟨i, ⟨bound, named⟩, rfl⟩
    rwa [BitVec.toNat_ofNat, Nat.mod_eq_of_lt bound]
  · refine fun named => ⟨r.toNat, ⟨r.isLt, named⟩, BitVec.eq_of_toNat_eq ?_⟩
    rw [BitVec.toNat_ofNat, Nat.mod_eq_of_lt r.isLt]

theorem regList_ascending (list : BitVec 16) : (regList list).Pairwise fun q r => q.toNat < r.toNat := by
  unfold regList
  rw [List.pairwise_map]
  refine ((List.pairwise_lt_range).filter _).imp_of_mem fun hi hj lt => ?_
  have bound {i : Nat} (h : i ∈ (List.range 16).filter fun i => list.getLsbD i) : i < 2 ^ 4 :=
    List.mem_range.1 (List.mem_of_mem_filter h)
  rwa [BitVec.toNat_ofNat, BitVec.toNat_ofNat, Nat.mod_eq_of_lt (bound hi), Nat.mod_eq_of_lt (bound hj)]

/-- A listed register splits its list into the lower ones and the higher ones. -/
theorem regList_split {list : BitVec 16} {r : RegNum} (h : list.getLsbD r.toNat = true) :
    ∃ lower higher, regList list = lower ++ r :: higher
      ∧ ∀ q ∈ lower, q.toNat < r.toNat ∧ list.getLsbD q.toNat = true := by
  obtain ⟨lower, higher, split⟩ := List.append_of_mem (mem_regList.2 h)
  have ascending := regList_ascending list
  rw [split, List.pairwise_append] at ascending
  obtain ⟨-, -, below⟩ := ascending
  refine ⟨lower, higher, split, fun q listed => ⟨below q listed r List.mem_cons_self, mem_regList.1 ?_⟩⟩
  rw [split]
  exact List.mem_append_left _ listed

/-! ### The first slot that aborts -/

/-- The fault and the address of the first slot that answers ABORT (R201, log entry 27). -/
def State.firstAbort (s : State) (l : List (RegNum × Word)) : Option (MemFault × Word) :=
  (l.find? fun p => s.aborts p.2).map fun p => (.externalFlat, p.2)

theorem firstAbort_cons_aborts {s : State} {r : RegNum} {addr : Word} (h : s.aborts addr = true)
    (l : List (RegNum × Word)) :
    s.firstAbort ((r, addr) :: l) = some (.externalFlat, addr) := by
  simp [State.firstAbort, h]

theorem firstAbort_cons_accepts {s : State} {r : RegNum} {addr : Word} (h : s.aborts addr = false)
    (l : List (RegNum × Word)) :
    s.firstAbort ((r, addr) :: l) = s.firstAbort l := by
  simp [State.firstAbort, h]

/-- The slots before the first that aborts. -/
def State.slotsBeforeAbort (s : State) (l : List (RegNum × Word)) : List (RegNum × Word) :=
  l.takeWhile fun p => !s.aborts p.2

theorem firstAbort_cons (s : State) (p : RegNum × Word) (l : List (RegNum × Word)) :
    s.firstAbort (p :: l) = (s.firstAbort [p]).or (s.firstAbort l) := by
  obtain ⟨r, addr⟩ := p
  cases raised : s.aborts addr with
  | true => rw [firstAbort_cons_aborts raised, firstAbort_cons_aborts raised, Option.some_or]
  | false => rw [firstAbort_cons_accepts raised, firstAbort_cons_accepts raised]; rfl

theorem firstAbort_append {s : State} {l : List (RegNum × Word)} (h : s.firstAbort l = none)
    (l' : List (RegNum × Word)) : s.firstAbort (l ++ l') = s.firstAbort l' := by
  unfold State.firstAbort at h ⊢
  rw [List.find?_append, Option.map_eq_none_iff.1 h, Option.none_or]

theorem slotsBeforeAbort_cons_aborts {s : State} {r : RegNum} {addr : Word} (h : s.aborts addr = true)
    (l : List (RegNum × Word)) : s.slotsBeforeAbort ((r, addr) :: l) = [] := by
  simp [State.slotsBeforeAbort, h]

theorem slotsBeforeAbort_cons_accepts {s : State} {r : RegNum} {addr : Word} (h : s.aborts addr = false)
    (l : List (RegNum × Word)) : s.slotsBeforeAbort ((r, addr) :: l) = (r, addr) :: s.slotsBeforeAbort l := by
  simp [State.slotsBeforeAbort, h]

theorem slotsBeforeAbort_append {s : State} {l : List (RegNum × Word)} (h : ∀ p ∈ l, s.aborts p.2 = false)
    (l' : List (RegNum × Word)) : s.slotsBeforeAbort (l ++ l') = l ++ s.slotsBeforeAbort l' :=
  List.takeWhile_append_of_pos fun p hp => by rw [h p hp]; rfl

/-- Where R`r` is the lowest listed register whose slot aborts, that slot is the first, and the slots before it are of
lower listed registers. -/
theorem firstAbort_regList {s : State} {first : Word} {list : BitVec 16} {r : RegNum}
    (listed : list.getLsbD r.toNat = true) (here : s.aborts (slotAddr first list r) = true)
    (before : ∀ q : RegNum, q.toNat < r.toNat → list.getLsbD q.toNat = true → s.aborts (slotAddr first list q) = false) :
    s.firstAbort (slots (regList list) first) = some (.externalFlat, slotAddr first list r)
    ∧ ∀ p ∈ s.slotsBeforeAbort (slots (regList list) first), p.1.toNat < r.toNat ∧ list.getLsbD p.1.toNat = true := by
  obtain ⟨lower, higher, split, below⟩ := regList_split listed
  have accepted : ∀ p ∈ lower.map fun q => (q, slotAddr first list q), s.aborts p.2 = false := by
    intro p hp
    obtain ⟨q, hq, rfl⟩ := List.mem_map.1 hp
    exact before q (below q hq).1 (below q hq).2
  rw [slots_regList, split, List.map_append, List.map_cons]
  constructor
  · have quiet : s.firstAbort (lower.map fun q => (q, slotAddr first list q)) = none := by
      rw [State.firstAbort, List.find?_eq_none.2 fun p hp => ne_true_of_eq_false (accepted p hp), Option.map_none]
    rw [firstAbort_append quiet]
    exact firstAbort_cons_aborts here _
  · rw [slotsBeforeAbort_append accepted, slotsBeforeAbort_cons_aborts here, List.append_nil]
    intro p hp
    obtain ⟨q, hq, rfl⟩ := List.mem_map.1 hp
    exact below q hq

/-! ### One flat access, aborted or not -/

/-- The memory system right after reset but for the addresses that abort. -/
structure FlatButAborts (s : State) : Prop where
  mmuOff : s.control.m = false
  cacheOff : s.control.c = false
  bufferOff : s.control.w = false
  alignOff : s.control.a = false
  nothingBuffered : s.writeBuffer = []
  busIdle : s.busTape = []

theorem Flat.butAborts {s : State} (h : Flat { s with abortRanges := [] }) : FlatButAborts s :=
  ⟨h.mmuOff, h.cacheOff, h.bufferOff, h.alignOff, h.nothingBuffered, h.busIdle⟩

/-- It looks at the control register, the write buffer and the bus alone. -/
theorem FlatButAborts.of_eq {s t : State} (h : FlatButAborts s) (control : t.control = s.control)
    (buffer : t.writeBuffer = s.writeBuffer) (tape : t.busTape = s.busTape) : FlatButAborts t where
  mmuOff := control ▸ h.mmuOff
  cacheOff := control ▸ h.cacheOff
  bufferOff := control ▸ h.bufferOff
  alignOff := control ▸ h.alignOff
  nothingBuffered := buffer.trans h.nothingBuffered
  busIdle := tape.trans h.busIdle

theorem FlatButAborts.blockWriteBack {s : State} (h : FlatButAborts s) (wb : Option (RegNum × Word)) :
    FlatButAborts (s.blockWriteBack wb) := by
  cases wb <;> exact h.of_eq rfl rfl rfl

/-- A word read gives memory or, where its address aborts, the external abort; it leaves the state alone. -/
theorem FlatButAborts.readWord {s : State} (h : FlatButAborts s) (va : Word) (kind : ReadKind) :
    s.readWord va kind = if s.aborts va then .abort .externalFlat s else .done (Memory.readWord s.mem va) s := by
  rw [readWord_aligned (misaligned_eq_false_iff.2 (Or.inl h.alignOff)), readBusWord_flat h.mmuOff h.cacheOff]
  unfold State.busRead
  rw [drainAll_nil h.nothingBuffered, Access.andThen, readTransfer_idle h.busIdle]
  rfl

/-- `t` differs from `s` in memory, the cache and the counter of free values at most, and in memory not in the cells that
`outside` names. -/
def StoresWithin (s t : State) (outside : Nat → Prop) : Prop :=
  ∃ m c d, t = { s with mem := m, idc := c, draws := d }
    ∧ ∀ b, outside b → Memory.read m b = Memory.read s.mem b

/-- A word store stays in its bus word, and it aborts exactly where its address does (R202). -/
theorem FlatButAborts.memWrite {s : State} (h : FlatButAborts s) (va v : Word) (seq : Bool) :
    ∃ t, s.memWrite va (.word v) false seq = (if s.aborts va then .abort .externalFlat t else .done () t)
      ∧ StoresWithin s t (outsideWord va) := by
  have idle : s.busAnswer = BusAnswer.idle := busAnswer_idle h.busIdle
  have tape : s.busTape.tail = s.busTape := by rw [h.busIdle]; rfl
  obtain ⟨-, -, -, write⟩ := flatAborts s va h.mmuOff h.cacheOff h.bufferOff h.nothingBuffered (by rw [idle]; rfl)
  obtain ⟨aborted, done⟩ := write (.word v) false seq (by rw [idle]; rfl) fun _ => Or.inl h.alignOff
  rw [idle, tape] at aborted done
  cases raised : s.aborts va with
  | true =>
    obtain ⟨t, stops, ⟨c, d, written⟩ | ⟨c, d, lost⟩⟩ := aborted (by rw [raised]; rfl)
    · exact ⟨t, stops, _, c, d, written, fun b => read_onMemory_outside⟩
    · exact ⟨t, stops, s.mem, c, d, lost, fun _ _ => rfl⟩
  | false =>
    obtain ⟨t, completes, c, d, written⟩ := done (by rw [raised]; rfl)
    exact ⟨t, completes, _, c, d, written, fun b => read_onMemory_outside⟩

/-! ### The run of LDM -/

/-- Log entry 27: after an abort the other loads are made and discarded. -/
theorem ldmTransfers_afterAbort {s : State} (h : FlatButAborts s) (user : Bool) (list : List RegNum) (addr newPc : Word)
    (first : MemFault × Word) : ldmTransfers user list addr newPc (some first) s = .done newPc (some first) s := by
  induction list generalizing addr with
  | nil => rfl
  | cons r rest ih =>
    unfold ldmTransfers
    rw [h.readWord]
    cases s.aborts addr with
    | true => exact ih _
    | false => exact ih _

/-- `regs` are the registers after the loads of some slots, as far as these leave them alone. -/
def LoadsWithin (s : State) (loaded : List (RegNum × Word)) (regs : Vector Word 30) : Prop :=
  ∀ k : Fin 30, (∀ p ∈ loaded, phys s.cpsr.mode p.1 ≠ k ∧ phys .usr p.1 ≠ k) → regs[k] = s.regs[k]

theorem LoadsWithin.cons {s : State} {m : Mode} {r : RegNum} {v addr : Word} {loaded : List (RegNum × Word)}
    {regs : Vector Word 30} (bank : m = .usr ∨ m = s.cpsr.mode) (h : LoadsWithin (s.setRegIn m r v) loaded regs) :
    LoadsWithin s ((r, addr) :: loaded) regs := by
  intro k apart
  obtain ⟨⟨own, user⟩, others⟩ := List.forall_mem_cons.1 apart
  have other : phys m r ≠ k := by
    rcases bank with rfl | rfl
    · exact user
    · exact own
  calc regs[k]
    _ = (s.setRegIn m r v).regs[k] := h k others
    _ = s.regs[k] := Vector.getElem_set_ne (phys m r).isLt k.isLt fun e => other (Fin.ext e)

/-- R201, R424: the loads before the first slot that aborts are all that reach a register. -/
theorem ldmTransfers_run {s : State} (h : FlatButAborts s) (user : Bool) (list : List RegNum) (addr newPc : Word) :
    ∃ w regs, ldmTransfers user list addr newPc none s =
        .done w (s.firstAbort (slots list addr)) { s with regs := regs }
      ∧ LoadsWithin s (s.slotsBeforeAbort (slots list addr)) regs := by
  induction list generalizing addr newPc s with
  | nil => exact ⟨newPc, s.regs, rfl, fun _ _ => rfl⟩
  | cons r rest ih =>
    unfold ldmTransfers slots
    rw [h.readWord]
    cases raised : s.aborts addr with
    | true =>
      rw [firstAbort_cons_aborts raised]
      exact ⟨newPc, s.regs, ldmTransfers_afterAbort h user rest _ _ _, fun _ _ => rfl⟩
    | false =>
      rw [firstAbort_cons_accepts raised, slotsBeforeAbort_cons_accepts raised]
      by_cases pc : r = 15#4
      · obtain ⟨w, regs, run, loads⟩ := ih h (addr + 4#32) (Memory.readWord s.mem addr)
        exact ⟨w, regs, (if_pos pc).trans run, fun k apart => loads k fun p hp => apart p (List.mem_cons_of_mem _ hp)⟩
      · obtain ⟨w, regs, run, loads⟩ := ih (s := s.setRegIn (if user then .usr else s.cpsr.mode) r
          (Memory.readWord s.mem addr)) (h.of_eq rfl rfl rfl) (addr + 4#32) newPc
        exact ⟨w, regs, (if_neg pc).trans run, loads.cons (by cases user <;> simp)⟩

/-! ### The run of STM -/

theorem StoresWithin.trans {s t u : State} {outside outside' both : Nat → Prop} (h : StoresWithin s t outside)
    (k : StoresWithin t u outside') (sub : ∀ b, both b → outside b ∧ outside' b) : StoresWithin s u both := by
  obtain ⟨m, c, d, rfl, same⟩ := h
  obtain ⟨m', c', d', rfl, same'⟩ := k
  exact ⟨m', c', d', rfl, fun b hb => (same' b (sub b hb).2).trans (same b (sub b hb).1)⟩

theorem StoresWithin.flatButAborts {s t : State} {outside : Nat → Prop} (h : StoresWithin s t outside)
    (flat : FlatButAborts s) : FlatButAborts t := by
  obtain ⟨m, c, d, rfl, -⟩ := h
  exact flat.of_eq rfl rfl rfl

theorem StoresWithin.firstAbort {s t : State} {outside : Nat → Prop} (h : StoresWithin s t outside)
    (l : List (RegNum × Word)) : t.firstAbort l = s.firstAbort l := by
  obtain ⟨m, c, d, rfl, -⟩ := h
  rfl

/-- A write-back after the store is one before it (R416). -/
theorem StoresWithin.blockWriteBack {s t : State} {outside : Nat → Prop} (h : StoresWithin s t outside)
    (wb : Option (RegNum × Word)) : StoresWithin (s.blockWriteBack wb) (t.blockWriteBack wb) outside := by
  obtain ⟨m, c, d, rfl, same⟩ := h
  cases wb with
  | none => exact ⟨m, c, d, rfl, same⟩
  | some moved => exact ⟨m, c, d, rfl, same⟩

theorem firstAbort_blockWriteBack (s : State) (wb : Option (RegNum × Word)) (l : List (RegNum × Word)) :
    (s.blockWriteBack wb).firstAbort l = s.firstAbort l := by
  cases wb <;> rfl

theorem slotsBeforeAbort_blockWriteBack (s : State) (wb : Option (RegNum × Word)) (l : List (RegNum × Word)) :
    (s.blockWriteBack wb).slotsBeforeAbort l = s.slotsBeforeAbort l := by
  cases wb <;> rfl

@[simp] theorem State.blockWriteBack_pc (s : State) (wb : Option (RegNum × Word)) : (s.blockWriteBack wb).pc = s.pc := by
  cases wb <;> rfl
@[simp] theorem State.blockWriteBack_cpsr (s : State) (wb : Option (RegNum × Word)) :
    (s.blockWriteBack wb).cpsr = s.cpsr := by
  cases wb <;> rfl
@[simp] theorem State.blockWriteBack_mem (s : State) (wb : Option (RegNum × Word)) :
    (s.blockWriteBack wb).mem = s.mem := by
  cases wb <;> rfl

/-- The cells outside the bus words of some slots. -/
def outsideSlots (l : List (RegNum × Word)) (b : Nat) : Prop := ∀ p ∈ l, outsideWord p.2 b

/-- One store of an STM: it stays in its slot, and the base is written back after it (R416). -/
theorem stmTransfers_cons {s : State} (h : FlatButAborts s) (user : Bool) (wb : Option (RegNum × Word)) (r : RegNum)
    (rest : List RegNum) (addr : Word) (seq : Bool) (first : Option (MemFault × Word)) :
    ∃ t, StoresWithin s t (outsideWord addr)
      ∧ stmTransfers user wb (r :: rest) addr seq first s = stmTransfers user none rest (addr + 4#32) true
          (first.or (s.firstAbort [(r, addr)])) (t.blockWriteBack wb) := by
  obtain ⟨t, stored, within⟩ := h.memWrite addr (if user then s.readUserReg r 12#32 else s.readReg .listed r 12#32) seq
  refine ⟨t, within, ?_⟩
  rw [stmTransfers, stored]
  cases raised : s.aborts addr with
  | true =>
    rw [firstAbort_cons_aborts raised]
    cases first <;> rfl
  | false =>
    rw [firstAbort_cons_accepts raised]
    cases first <;> rfl

/-- A run of stores with no base to write back: it stays in its slots and reports the first that aborts (R201, R425). -/
theorem stmTransfers_run {s : State} (h : FlatButAborts s) (user : Bool) (list : List RegNum) (addr : Word) (seq : Bool)
    (first : Option (MemFault × Word)) :
    ∃ t, StoresWithin s t (outsideSlots (slots list addr))
      ∧ stmTransfers user none list addr seq first s = .done 0#32 (first.or (s.firstAbort (slots list addr))) t := by
  induction list generalizing addr seq first s with
  | nil => exact ⟨s, ⟨s.mem, s.idc, s.draws, rfl, fun _ _ => rfl⟩, by cases first <;> rfl⟩
  | cons r rest ih =>
    obtain ⟨t, within, step⟩ := stmTransfers_cons h user none r rest addr seq first
    obtain ⟨u, others, run⟩ := ih (within.flatButAborts h) (addr + 4#32) true (first.or (s.firstAbort [(r, addr)]))
    refine ⟨u, within.trans others fun b => List.forall_mem_cons.1, ?_⟩
    rw [step, slots, firstAbort_cons s (r, addr) (slots rest _), ← Option.or_assoc, ← within.firstAbort (slots rest _)]
    exact run

/-- The run of an STM: the base is written back after the first store, whatever aborts (R418, R425). -/
theorem stmTransfers_writesBack {s : State} (h : FlatButAborts s) (user : Bool) (wb : Option (RegNum × Word))
    {list : List RegNum} (nonempty : list ≠ []) (addr : Word) (seq : Bool) :
    ∃ t, StoresWithin (s.blockWriteBack wb) t (outsideSlots (slots list addr))
      ∧ stmTransfers user wb list addr seq none s = .done 0#32 (s.firstAbort (slots list addr)) t := by
  obtain ⟨r, rest, rfl⟩ := List.exists_cons_of_ne_nil nonempty
  obtain ⟨t, within, step⟩ := stmTransfers_cons h user wb r rest addr seq none
  have moved := within.blockWriteBack wb
  obtain ⟨u, others, run⟩ := stmTransfers_run (moved.flatButAborts (h.blockWriteBack wb)) user rest (addr + 4#32) true
    (Option.none.or (s.firstAbort [(r, addr)]))
  refine ⟨u, moved.trans others fun b => List.forall_mem_cons.1, ?_⟩
  rw [step, run, moved.firstAbort, firstAbort_blockWriteBack, slots, firstAbort_cons s (r, addr) (slots rest _),
    Option.none_or]

/-! ### The data abort at the end -/

@[simp] theorem State.dataAbort_regs (s : State) (f : MemFault) (va : Word) :
    (s.dataAbort f va).regs = s.regs.set 27 (s.pc + 8#32) := rfl
@[simp] theorem State.dataAbort_pc (s : State) (f : MemFault) (va : Word) : (s.dataAbort f va).pc = 0x10#32 := rfl
@[simp] theorem State.dataAbort_cpsr (s : State) (f : MemFault) (va : Word) :
    (s.dataAbort f va).cpsr = { s.cpsr with mode := .abt, i := true } := by
  obtain ⟨x, taken⟩ := dataAbort_taken s f va
  rw [taken]
@[simp] theorem State.dataAbort_spsrAbt (s : State) (f : MemFault) (va : Word) :
    (s.dataAbort f va).spsrAbt = saveCpsr s.cpsr := rfl
@[simp] theorem State.dataAbort_far (s : State) (f : MemFault) (va : Word) : (s.dataAbort f va).far = va := rfl
@[simp] theorem State.dataAbort_mem (s : State) (f : MemFault) (va : Word) : (s.dataAbort f va).mem = s.mem := rfl

/-! ### Aborted LDM and STM -/

/-- The write-back of a block transfer: the moved base, where W asks for it (R411). -/
def State.bdtWriteBack (s : State) (a : Bdt) : Option (RegNum × Word) :=
  if a.w then some (a.rn, (s.bdtSpan a).2) else none

theorem bdtWriteBack_regs (s : State) (a : Bdt) : (s.blockWriteBack (s.bdtWriteBack a)).regs =
    if a.w then s.regs.set (phys s.cpsr.mode a.rn) (s.bdtSpan a).2 else s.regs := by
  unfold State.bdtWriteBack
  split <;> rfl

theorem bdtWriteBack_regs_other (s : State) {a : Bdt} {k : Fin 30} (h : k ≠ phys s.cpsr.mode a.rn) :
    (s.blockWriteBack (s.bdtWriteBack a)).regs[k] = s.regs[k] := by
  rw [bdtWriteBack_regs]
  split
  · exact Vector.getElem_set_ne (phys s.cpsr.mode a.rn).isLt k.isLt fun e => h (Fin.ext e).symm
  · rfl

/-- R201, R423, R424: an LDM whose run meets an abort ends in the data abort, taken with the base restored or moved. -/
theorem exec_ldm_aborted {s : State} {a : Bdt} {f : MemFault} {va : Word} (flat : FlatButAborts s)
    (passed : condPassed a.cond s.cpsr = true) (allowed : bdtRefusal a true s.privileged = none)
    (found : s.firstAbort (slots (regList a.list) (s.bdtSpan a).1) = some (f, va)) :
    ∃ (u : State) (regs : Vector Word 30), exec (.ldm a) s = .next (u.dataAbort f va)
      ∧ LoadsWithin (s.blockWriteBack (s.bdtWriteBack a))
        (s.slotsBeforeAbort (slots (regList a.list) (s.bdtSpan a).1)) regs
      ∧ u.regs = regs.set (phys s.cpsr.mode a.rn) (if a.w then (s.bdtSpan a).2 else s.regIn s.cpsr.mode a.rn)
      ∧ u.pc = s.pc ∧ u.cpsr = s.cpsr ∧ u.mem = s.mem := by
  have start : (if a.w then s.setReg a.rn (s.bdtSpan a).2 else s) = s.blockWriteBack (s.bdtWriteBack a) := by
    unfold State.bdtWriteBack
    split <;> rfl
  have moved : s.blockWriteBack (s.bdtWriteBack a) = { s with regs := (s.blockWriteBack (s.bdtWriteBack a)).regs } := by
    cases s.bdtWriteBack a <;> rfl
  obtain ⟨w, regs, run, loads⟩ := ldmTransfers_run (s := s.blockWriteBack (s.bdtWriteBack a))
    (flat.blockWriteBack _) (bdtUserBank a true) (regList a.list) (s.bdtSpan a).1 0#32
  rw [firstAbort_blockWriteBack, found] at run
  rw [slotsBeforeAbort_blockWriteBack] at loads
  refine ⟨State.startHazard (State.setReg { s with regs := regs } a.rn
    (if a.w then (s.bdtSpan a).2 else s.regIn s.cpsr.mode a.rn)) (bdtUserBank a true), regs,
    (whenPassed_unlessRefused passed allowed).trans ?_, loads, by simp, by simp, by simp, by simp⟩
  dsimp only
  rw [start, run, moved]

/-- An STM whose run meets an abort ends in the data abort. -/
theorem exec_stm_aborted {s : State} {a : Bdt} {f : MemFault} {va : Word} (flat : FlatButAborts s)
    (passed : condPassed a.cond s.cpsr = true) (allowed : bdtRefusal a false s.privileged = none)
    (found : s.firstAbort (slots (regList a.list) (s.bdtSpan a).1) = some (f, va)) :
    ∃ t, StoresWithin (s.blockWriteBack (s.bdtWriteBack a)) t
        (outsideSlots (slots (regList a.list) (s.bdtSpan a).1))
      ∧ exec (.stm a) s = .next (t.dataAbort f va) := by
  have listed : regList a.list ≠ [] := fun empty => by rw [empty] at found; cases found
  obtain ⟨t, within, run⟩ := stmTransfers_writesBack flat (bdtUserBank a false)
    (s.bdtWriteBack a) listed (s.bdtSpan a).1 false
  refine ⟨t, within, (whenPassed_unlessRefused passed allowed).trans ?_⟩
  rw [State.bdtWriteBack, found] at run
  dsimp only
  rw [run]

/-- What the write of the base and that of R14 in Abort mode leave in a register. -/
theorem getElem_set_base_link (regs : Vector Word 30) (base k : Fin 30) (moved link : Word) (h : k ≠ 27) :
    ((regs.set base moved).set (27 : Fin 30) link)[k] = if k = base then moved else regs[k] := by
  rw [Fin.getElem_fin, Vector.getElem_set_ne _ _ fun e => h (Fin.ext e).symm, Vector.getElem_set]
  simp only [Fin.ext_iff, eq_comm, Fin.getElem_fin]

/-- Settles O37: both runs report the lowest listed register whose slot aborts; what LDM loads before it and what STM
stores stay in their registers and slots. -/
theorem abortedBlocks : Obligations.AbortedBlocks := by
  intro s a r only passed listed here before
  have flat := only.butAborts
  obtain ⟨found, lower⟩ := firstAbort_regList listed here before
  refine ⟨fun allowed => ?_, fun allowed => ?_⟩
  · obtain ⟨u, regs, run, loads, after, pc, cpsr, mem⟩ := exec_ldm_aborted flat passed allowed found
    have value (k : Fin 30) (hk : k ≠ 27) : (u.dataAbort .externalFlat (slotAddr (s.bdtSpan a).1 a.list r)).regs[k]
        = if k = phys s.cpsr.mode a.rn then (if a.w then (s.bdtSpan a).2 else s.regIn s.cpsr.mode a.rn)
          else regs[k] := by
      rw [State.dataAbort_regs, after]
      exact getElem_set_base_link regs _ k _ _ hk
    refine ⟨_, run, by simp [cpsr], rfl, by simp [cpsr], rfl, mem, by simp [pc],
      fun other => (value _ other).trans (if_pos rfl), fun k hk notBase apart => ?_⟩
    calc _ = regs[k] := (value k hk).trans (if_neg notBase)
      _ = (s.blockWriteBack (s.bdtWriteBack a)).regs[k] := loads k fun p hp => ?_
      _ = s.regs[k] := bdtWriteBack_regs_other s notBase
    obtain ⟨below, named⟩ := lower p hp
    rw [State.blockWriteBack_cpsr]
    exact apart p.1 below named
  · obtain ⟨t, ⟨m, c, d, rfl, same⟩, run⟩ := exec_stm_aborted flat passed allowed found
    refine ⟨_, run, by simp, rfl, by simp, rfl, ?_, fun b outside => ?_⟩
    · simp only [State.dataAbort_regs, State.blockWriteBack_pc, bdtWriteBack_regs]
    · rw [State.blockWriteBack_mem] at same
      refine same b fun p hp => ?_
      rw [slots_regList] at hp
      obtain ⟨q, hq, rfl⟩ := List.mem_map.1 hp
      exact outside q (mem_regList.1 hq)

end Sys2Proof.Machine
end

section
/-! Fields of words: a field in two parts, the fields of a word that was put together from fields, and the fields of
the word of each format. -/

namespace Sys2Proof
open Machine

/-! ### A field in two parts -/

/-- A field is its upper part followed by its lower part. -/
theorem field_split (w : Word) (lo m n : Nat) : field w lo (m + n) = field w (lo + n) m ++ field w lo n :=
  (BitVec.extractLsb'_append_extractLsb'_eq_extractLsb' rfl).symm

/-! ### Reading a field or a bit of a placed field -/

/-- A field that shares no bit with the placed one reads 0. -/
@[simp] theorem field_place_apart {n : Nat} (lo : Nat) (v : BitVec n) (lo' len : Nat)
    (h : lo' + len ≤ lo ∨ lo + n ≤ lo') : field (place lo v) lo' len = 0#len :=
  h.elim (field_place_below lo v lo' len) (field_place_above lo v lo' len)

@[simp] theorem field_place_within {n : Nat} (lo : Nat) (v : BitVec n) (lo' len : Nat)
    (h : lo ≤ lo' ∧ lo' < lo + n ∧ lo' + len ≤ 32) :
    field (place lo v) lo' len = v.extractLsb' (lo' - lo) len := by
  ext i hi
  have inWord : lo' + i < 32 := by omega
  have notBelow : ¬ lo' + i < lo := by omega
  simp [field, place, inWord, notBelow, Nat.sub_add_comm h.1]

/-- A field that begins below the placed one and reaches into it. -/
@[simp] theorem field_place_across {n : Nat} (lo : Nat) (v : BitVec n) (lo' len : Nat)
    (h : lo' < lo ∧ lo < lo' + len ∧ lo' + len ≤ 32) :
    field (place lo v) lo' len = v.setWidth len <<< (lo - lo') := by
  ext i hi
  have inWord : lo' + i < 32 := by omega
  rcases Nat.lt_or_ge (lo' + i) lo with below | above
  · have belowToo : i < lo - lo' := by omega
    simp [field, place, below, belowToo]
  · have offset : lo' + i - lo = i - (lo - lo') := by omega
    have notBelow : ¬ i < lo - lo' := by omega
    simp [field, place, inWord, offset, notBelow, Nat.not_lt.2 above]

@[simp] theorem wbit_place_within {n : Nat} (lo : Nat) (v : BitVec n) (i : Nat)
    (h : lo ≤ i ∧ i < lo + n ∧ i < 32) : wbit (place lo v) i = v.getLsbD (i - lo) := by
  simp [wbit, place, h]

@[simp] theorem wbit_place_apart {n : Nat} (lo : Nat) (v : BitVec n) (i : Nat) (h : i < lo ∨ lo + n ≤ i) :
    wbit (place lo v) i = false :=
  h.elim (wbit_place_below lo v i) (wbit_place_above lo v i)

@[simp] theorem getElem_ofBool1 (b : Bool) : (ofBool1 b)[0] = b := by simp [ofBool1]

/-! ### The fields of an encoded format -/

@[simp] theorem DpImm.ofWord_toWord (op : AluOp) (a : DpImm) : DpImm.ofWord (a.toWord op) = a := by
  simp [DpImm.ofWord, DpImm.toWord, condOf, field_or, wbit_or]

@[simp] theorem DpShift.ofWord_toWord (op : AluOp) (a : DpShift) : DpShift.ofWord (a.toWord op) = a := by
  simp [DpShift.ofWord, DpShift.toWord, condOf, field_or, wbit_or]

@[simp] theorem DpRegShift.ofWord_toWord (op : AluOp) (a : DpRegShift) : DpRegShift.ofWord (a.toWord op) = a := by
  simp [DpRegShift.ofWord, DpRegShift.toWord, condOf, field_or, wbit_or]

@[simp] theorem MrsArgs.ofWord_toWord (a : MrsArgs) : MrsArgs.ofWord a.toWord = a := by
  simp [MrsArgs.ofWord, MrsArgs.toWord, condOf, field_or, wbit_or]

@[simp] theorem MsrRegArgs.ofWord_toWord (fields : BitVec 10) (a : MsrRegArgs) :
    MsrRegArgs.ofWord (a.toWord fields) = a := by
  simp [MsrRegArgs.ofWord, MsrRegArgs.toWord, condOf, field_or, wbit_or]

@[simp] theorem MsrImmArgs.ofWord_toWord (a : MsrImmArgs) : MsrImmArgs.ofWord a.toWord = a := by
  simp [MsrImmArgs.ofWord, MsrImmArgs.toWord, condOf, field_or, wbit_or]

@[simp] theorem MulArgs.ofWord_toWord (acc : BitVec 1) (a : MulArgs) : MulArgs.ofWord (a.toWord acc) = a := by
  simp [MulArgs.ofWord, MulArgs.toWord, condOf, field_or, wbit_or]

@[simp] theorem SwpArgs.ofWord_toWord (byte : BitVec 1) (a : SwpArgs) : SwpArgs.ofWord (a.toWord byte) = a := by
  simp [SwpArgs.ofWord, SwpArgs.toWord, condOf, field_or]

@[simp] theorem SdtImm.ofWord_toWord (byte load : BitVec 1) (a : SdtImm) :
    SdtImm.ofWord (a.toWord byte load) = a := by
  simp [SdtImm.ofWord, SdtImm.toWord, condOf, field_or, wbit_or]

@[simp] theorem SdtReg.ofWord_toWord (byte load : BitVec 1) (a : SdtReg) :
    SdtReg.ofWord (a.toWord byte load) = a := by
  simp [SdtReg.ofWord, SdtReg.toWord, condOf, field_or, wbit_or]

@[simp] theorem UndefArgs.ofWord_toWord (a : UndefArgs) : UndefArgs.ofWord a.toWord = a := by
  simp [UndefArgs.ofWord, UndefArgs.toWord, condOf, field_or]

@[simp] theorem Bdt.ofWord_toWord (load : BitVec 1) (a : Bdt) : Bdt.ofWord (a.toWord load) = a := by
  simp [Bdt.ofWord, Bdt.toWord, condOf, field_or, wbit_or]

@[simp] theorem BranchArgs.ofWord_toWord (link : BitVec 1) (a : BranchArgs) :
    BranchArgs.ofWord (a.toWord link) = a := by
  simp [BranchArgs.ofWord, BranchArgs.toWord, condOf, field_or]

@[simp] theorem Cdt.ofWord_toWord (load : BitVec 1) (a : Cdt) : Cdt.ofWord (a.toWord load) = a := by
  simp [Cdt.ofWord, Cdt.toWord, condOf, field_or, wbit_or]

@[simp] theorem Cdo.ofWord_toWord (a : Cdo) : Cdo.ofWord a.toWord = a := by
  simp [Cdo.ofWord, Cdo.toWord, condOf, field_or]

@[simp] theorem Crt.ofWord_toWord (load : BitVec 1) (a : Crt) : Crt.ofWord (a.toWord load) = a := by
  simp [Crt.ofWord, Crt.toWord, condOf, field_or]

@[simp] theorem SwiArgs.ofWord_toWord (a : SwiArgs) : SwiArgs.ofWord a.toWord = a := by
  simp [SwiArgs.ofWord, SwiArgs.toWord, condOf, field_or]

@[simp] theorem Cp15Args.ofWord_toWord (load : BitVec 1) (crn : BitVec 4) (a : Cp15Args) :
    Cp15Args.ofWord (a.toWord load crn) = a := by
  simp [Cp15Args.ofWord, Cp15Args.toWord, Crt.toWord, condOf, field_or]

end Sys2Proof
end

section
/-! The decoder by class, and what it answers on the word of each format. -/

namespace Sys2Proof
open Machine

/-! ### The decoder by class -/

/-- The bits 27:25 of a word are one of the eight classes of R222. -/
theorem class_cases (c : BitVec 3) :
    c = 0#3 ∨ c = 1#3 ∨ c = 2#3 ∨ c = 3#3 ∨ c = 4#3 ∨ c = 5#3 ∨ c = 6#3 ∨ c = 7#3 := by
  revert c; decide

theorem decodeWord_class0 {w : Word} (h : field w 25 3 = 0#3) :
    decodeWord w = if wbit w 7 && wbit w 4 then decodeMultiplySpace w
      else if inPsrSpace w then decodePsrSpace w
      else .ok (if wbit w 4 then decodeDpRegShift w else decodeDpShift w) := by
  rw [decodeWord, h]; rfl

theorem decodeWord_class1 {w : Word} (h : field w 25 3 = 1#3) :
    decodeWord w = if inPsrSpace w then decodePsrSpace w else .ok (decodeDpImm w) := by
  rw [decodeWord, h]; rfl

theorem decodeWord_class2 {w : Word} (h : field w 25 3 = 2#3) : decodeWord w = .ok (decodeSdtImm w) := by
  rw [decodeWord, h]; rfl

theorem decodeWord_class3 {w : Word} (h : field w 25 3 = 3#3) :
    decodeWord w = .ok (if wbit w 4 then .undefined (UndefArgs.ofWord w) else decodeSdtReg w) := by
  rw [decodeWord, h]; rfl

theorem decodeWord_class4 {w : Word} (h : field w 25 3 = 4#3) :
    decodeWord w = .ok (if wbit w 20 then .ldm (Bdt.ofWord w) else .stm (Bdt.ofWord w)) := by
  rw [decodeWord, h]; rfl

theorem decodeWord_class5 {w : Word} (h : field w 25 3 = 5#3) :
    decodeWord w = .ok (if wbit w 24 then .bl (BranchArgs.ofWord w) else .b (BranchArgs.ofWord w)) := by
  rw [decodeWord, h]; rfl

theorem decodeWord_class6 {w : Word} (h : field w 25 3 = 6#3) :
    decodeWord w = .ok (if wbit w 20 then .ldc (Cdt.ofWord w) else .stc (Cdt.ofWord w)) := by
  rw [decodeWord, h]; rfl

theorem decodeWord_class7 {w : Word} (h : field w 25 3 = 7#3) :
    decodeWord w = .ok (if wbit w 24 then .swi (SwiArgs.ofWord w)
      else if !wbit w 4 then .cdp (Cdo.ofWord w)
      else if wbit w 20 then decodeMrc w else decodeMcr w) := by
  rw [decodeWord, h]; rfl

/-! ### Data processing -/

/-- The PSR transfers take the words of the tests that do not set S (R222). -/
theorem inPsrSpace_eq (w : Word) :
    inPsrSpace w = (!aluWrites (AluOp.ofBits (field w 21 4)) && !wbit w 20) := by
  have parts : field w 21 4 = field w 23 2 ++ field w 21 2 :=
    field_split w 21 2 2
  have tests : ∀ hi lo : BitVec 2, (hi == 0b10#2) = !aluWrites (AluOp.ofBits (hi ++ lo)) := by decide
  rw [inPsrSpace, parts, tests (field w 23 2) (field w 21 2)]

theorem inPsrSpace_eq_false_iff {w : Word} :
    inPsrSpace w = false ↔ (aluWrites (AluOp.ofBits (field w 21 4)) = false → wbit w 20 = true) := by
  rw [inPsrSpace_eq]
  cases aluWrites (AluOp.ofBits (field w 21 4)) <;> simp

theorem decodeDpImm_eq (w : Word) : decodeDpImm w = dpImm (AluOp.ofBits (field w 21 4)) (DpImm.ofWord w) := by
  unfold decodeDpImm; cases AluOp.ofBits (field w 21 4) <;> rfl

theorem decodeDpShift_eq (w : Word) :
    decodeDpShift w = dpShift (AluOp.ofBits (field w 21 4)) (DpShift.ofWord w) := by
  unfold decodeDpShift; cases AluOp.ofBits (field w 21 4) <;> rfl

theorem decodeDpRegShift_eq (w : Word) :
    decodeDpRegShift w = dpRegShift (AluOp.ofBits (field w 21 4)) (DpRegShift.ofWord w) := by
  unfold decodeDpRegShift; cases AluOp.ofBits (field w 21 4) <;> rfl

/-! ### Decoding the word of each format -/

theorem decodeWord_dpImm (op : AluOp) (a : DpImm) (s : aluWrites op = false → a.s = true) :
    decodeWord (a.toWord op) = .ok (dpImm op a) := by
  have opcode : AluOp.ofBits (field (a.toWord op) 21 4) = op := by simp [DpImm.toWord, field_or]
  have notPsr : inPsrSpace (a.toWord op) = false := by
    rw [inPsrSpace_eq_false_iff, opcode]
    simpa [DpImm.toWord, wbit_or] using s
  rw [decodeWord_class1 (by simp [DpImm.toWord, field_or]), notPsr, decodeDpImm_eq, opcode, DpImm.ofWord_toWord]
  rfl

theorem decodeWord_dpShift (op : AluOp) (a : DpShift) (s : aluWrites op = false → a.s = true) :
    decodeWord (a.toWord op) = .ok (dpShift op a) := by
  have opcode : AluOp.ofBits (field (a.toWord op) 21 4) = op := by simp [DpShift.toWord, field_or]
  have notPsr : inPsrSpace (a.toWord op) = false := by
    rw [inPsrSpace_eq_false_iff, opcode]
    simpa [DpShift.toWord, wbit_or] using s
  have bit4 : wbit (a.toWord op) 4 = false := by simp [DpShift.toWord, wbit_or]
  rw [decodeWord_class0 (by simp [DpShift.toWord, field_or]), bit4, notPsr, decodeDpShift_eq, opcode,
    DpShift.ofWord_toWord]
  simp

theorem decodeWord_dpRegShift (op : AluOp) (a : DpRegShift) (s : aluWrites op = false → a.s = true) :
    decodeWord (a.toWord op) = .ok (dpRegShift op a) := by
  have opcode : AluOp.ofBits (field (a.toWord op) 21 4) = op := by simp [DpRegShift.toWord, field_or]
  have notPsr : inPsrSpace (a.toWord op) = false := by
    rw [inPsrSpace_eq_false_iff, opcode]
    simpa [DpRegShift.toWord, wbit_or] using s
  have bit4 : wbit (a.toWord op) 4 = true := by simp [DpRegShift.toWord, wbit_or]
  have bit7 : wbit (a.toWord op) 7 = false := by simp [DpRegShift.toWord, wbit_or]
  rw [decodeWord_class0 (by simp [DpRegShift.toWord, field_or]), bit7, bit4, notPsr, decodeDpRegShift_eq, opcode,
    DpRegShift.ofWord_toWord]
  rfl

/-- The words of the PSR transfers from a register or to one: class 000, not both of bits 7 and 4. -/
theorem decodeWord_psrRegister {w : Word} (class0 : field w 25 3 = 0#3) (bit4 : wbit w 4 = false)
    (psr : inPsrSpace w = true) : decodeWord w = decodePsrSpace w := by
  simp [decodeWord_class0 class0, bit4, psr]

theorem decodeWord_mrs (a : MrsArgs) : decodeWord a.toWord = .ok (.mrs a) := by
  rw [decodeWord_psrRegister (by simp [MrsArgs.toWord, field_or]) (by simp [MrsArgs.toWord, wbit_or])
    (by simp [inPsrSpace, MrsArgs.toWord, field_or, wbit_or])]
  rw [decodePsrSpace, if_pos (by simp [MrsArgs.toWord, field_or]), MrsArgs.ofWord_toWord]

theorem decodeWord_msrRegister (fields : BitVec 10) (a : MsrRegArgs)
    (h : fields = 0b1010011111#10 ∨ fields = 0b1010001111#10) :
    decodeWord (a.toWord fields) = .ok (if fields = 0b1010011111#10 then .msr a else .msrFlgReg a) := by
  rcases h with rfl | rfl
  all_goals
    rw [decodeWord_psrRegister (by simp [MsrRegArgs.toWord, field_or]) (by simp [MsrRegArgs.toWord, wbit_or])
      (by simp [inPsrSpace, MsrRegArgs.toWord, field_or, wbit_or])]
    rw [decodePsrSpace, MsrRegArgs.ofWord_toWord]
    simp [MsrRegArgs.toWord, field_or]

theorem decodeWord_msrFlgImm (a : MsrImmArgs) : decodeWord a.toWord = .ok (.msrFlgImm a) := by
  have psr : inPsrSpace a.toWord = true := by simp [inPsrSpace, MsrImmArgs.toWord, field_or, wbit_or]
  rw [decodeWord_class1 (by simp [MsrImmArgs.toWord, field_or]), psr, decodePsrSpace, MsrImmArgs.ofWord_toWord]
  simp [MsrImmArgs.toWord, field_or]

theorem decodeWord_multiply (accumulate : Bool) (a : MulArgs) :
    decodeWord (a.toWord (ofBool1 accumulate)) = .ok (if accumulate then .mla a else .mul a) := by
  rw [decodeWord_class0 (by simp [MulArgs.toWord, field_or]),
    if_pos (by simp [MulArgs.toWord, wbit_or]), decodeMultiplySpace, MulArgs.ofWord_toWord]
  simp [MulArgs.toWord, field_or, wbit_or]

theorem decodeWord_swap (byte : Bool) (a : SwpArgs) :
    decodeWord (a.toWord (ofBool1 byte)) = .ok (if byte then .swpb a else .swp a) := by
  rw [decodeWord_class0 (by simp [SwpArgs.toWord, field_or]),
    if_pos (by simp [SwpArgs.toWord, wbit_or]), decodeMultiplySpace, SwpArgs.ofWord_toWord]
  simp [SwpArgs.toWord, field_or, wbit_or]

theorem decodeWord_sdtImm (byte load : Bool) (a : SdtImm) :
    decodeWord (a.toWord (ofBool1 byte) (ofBool1 load))
      = .ok (if load then (if byte then .ldrbImm a else .ldrImm a)
        else if byte then .strbImm a else .strImm a) := by
  have bit22 : wbit (a.toWord (ofBool1 byte) (ofBool1 load)) 22 = byte := by simp [SdtImm.toWord, wbit_or]
  have bit20 : wbit (a.toWord (ofBool1 byte) (ofBool1 load)) 20 = load := by simp [SdtImm.toWord, wbit_or]
  rw [decodeWord_class2 (by simp [SdtImm.toWord, field_or]), decodeSdtImm, bit22, bit20, SdtImm.ofWord_toWord]
  cases byte <;> cases load <;> rfl

theorem decodeWord_sdtReg (byte load : Bool) (a : SdtReg) :
    decodeWord (a.toWord (ofBool1 byte) (ofBool1 load))
      = .ok (if load then (if byte then .ldrbReg a else .ldrReg a)
        else if byte then .strbReg a else .strReg a) := by
  have bit22 : wbit (a.toWord (ofBool1 byte) (ofBool1 load)) 22 = byte := by simp [SdtReg.toWord, wbit_or]
  have bit20 : wbit (a.toWord (ofBool1 byte) (ofBool1 load)) 20 = load := by simp [SdtReg.toWord, wbit_or]
  have bit4 : wbit (a.toWord (ofBool1 byte) (ofBool1 load)) 4 = false := by simp [SdtReg.toWord, wbit_or]
  rw [decodeWord_class3 (by simp [SdtReg.toWord, field_or]), bit4, decodeSdtReg, bit22, bit20, SdtReg.ofWord_toWord]
  cases byte <;> cases load <;> rfl

theorem decodeWord_undefined (a : UndefArgs) : decodeWord a.toWord = .ok (.undefined a) := by
  rw [decodeWord_class3 (by simp [UndefArgs.toWord, field_or]), UndefArgs.ofWord_toWord,
    if_pos (by simp [UndefArgs.toWord, wbit_or])]

theorem decodeWord_blockTransfer (load : Bool) (a : Bdt) :
    decodeWord (a.toWord (ofBool1 load)) = .ok (if load then .ldm a else .stm a) := by
  rw [decodeWord_class4 (by simp [Bdt.toWord, field_or]), Bdt.ofWord_toWord]
  simp [Bdt.toWord, wbit_or]

theorem decodeWord_branch (link : Bool) (a : BranchArgs) :
    decodeWord (a.toWord (ofBool1 link)) = .ok (if link then .bl a else .b a) := by
  rw [decodeWord_class5 (by simp [BranchArgs.toWord, field_or]), BranchArgs.ofWord_toWord]
  simp [BranchArgs.toWord, wbit_or]

theorem decodeWord_coprocTransfer (load : Bool) (a : Cdt) :
    decodeWord (a.toWord (ofBool1 load)) = .ok (if load then .ldc a else .stc a) := by
  rw [decodeWord_class6 (by simp [Cdt.toWord, field_or]), Cdt.ofWord_toWord]
  simp [Cdt.toWord, wbit_or]

theorem decodeWord_cdp (a : Cdo) : decodeWord a.toWord = .ok (.cdp a) := by
  rw [decodeWord_class7 (by simp [Cdo.toWord, field_or]), Cdo.ofWord_toWord]
  simp [Cdo.toWord, wbit_or]

theorem decodeWord_swi (a : SwiArgs) : decodeWord a.toWord = .ok (.swi a) := by
  rw [decodeWord_class7 (by simp [SwiArgs.toWord, field_or]), SwiArgs.ofWord_toWord]
  simp [SwiArgs.toWord, wbit_or]

theorem decodeWord_registerTransfer (load : Bool) (a : Crt) :
    decodeWord (a.toWord (ofBool1 load))
      = .ok (if load then decodeMrc (a.toWord (ofBool1 load)) else decodeMcr (a.toWord (ofBool1 load))) := by
  rw [decodeWord_class7 (by simp [Crt.toWord, field_or])]
  simp [Crt.toWord, wbit_or]

/-! ### The rows of coprocessor 15 -/

/-- The row of an MRC from register `crn` of coprocessor 15, where it has its own (R250, R481). -/
def cp15Read (crn : BitVec 4) : Option (Cp15Args → Instr) :=
  match crn.toNat with
  | 0 => some .mrcId
  | 5 => some .mrcFsr
  | 6 => some .mrcFar
  | _ => none

/-- The row of an MCR to register `crn` of coprocessor 15, where it has its own (R250, R481). -/
def cp15Write (crn : BitVec 4) : Option (Cp15Args → Instr) :=
  match crn.toNat with
  | 1 => some .mcrControl
  | 2 => some .mcrTtb
  | 3 => some .mcrDacr
  | 5 => some .mcrTlbFlush
  | 6 => some .mcrTlbPurge
  | 7 => some .mcrIdcFlush
  | _ => none

theorem mrcGeneral_iff (a : Crt) : a.mrcGeneral = true ↔ (a.cp = 15#4 → cp15Read a.crn = none) := by
  have rows : ∀ crn : BitVec 4, (crn == 0#4 || crn == 5#4 || crn == 6#4) = (cp15Read crn).isSome := by decide
  rw [Crt.mrcGeneral, rows]
  by_cases cp : a.cp = 15#4 <;> simp [cp]

theorem mcrGeneral_iff (a : Crt) : a.mcrGeneral = true ↔ (a.cp = 15#4 → cp15Write a.crn = none) := by
  have rows : ∀ crn : BitVec 4, (crn == 1#4 || crn == 2#4 || crn == 3#4 || crn == 5#4 || crn == 6#4 || crn == 7#4)
      = (cp15Write crn).isSome := by decide
  rw [Crt.mcrGeneral, rows]
  by_cases cp : a.cp = 15#4 <;> simp [cp]

theorem decodeMrc_eq (w : Word) : decodeMrc w =
    if field w 8 4 = 15#4 then
      ((cp15Read (field w 16 4)).map (· (Cp15Args.ofWord w))).getD (.mrc (Crt.ofWord w))
    else .mrc (Crt.ofWord w) := by
  unfold decodeMrc cp15Read
  generalize (field w 16 4).toNat = crn
  split
  next => split <;> simp [*]
  next => rfl

theorem decodeMcr_eq (w : Word) : decodeMcr w =
    if field w 8 4 = 15#4 then
      ((cp15Write (field w 16 4)).map (· (Cp15Args.ofWord w))).getD (.mcr (Crt.ofWord w))
    else .mcr (Crt.ofWord w) := by
  unfold decodeMcr cp15Write
  generalize (field w 16 4).toNat = crn
  split
  next => split <;> simp [*]
  next => rfl

theorem decodeMrc_of_general {w : Word} (h : (Crt.ofWord w).mrcGeneral = true) :
    decodeMrc w = .mrc (Crt.ofWord w) := by
  rw [decodeMrc_eq]
  split
  next cp => rw [show cp15Read (field w 16 4) = none from (mrcGeneral_iff _).1 h cp]; rfl
  next => rfl

theorem decodeMcr_of_general {w : Word} (h : (Crt.ofWord w).mcrGeneral = true) :
    decodeMcr w = .mcr (Crt.ofWord w) := by
  rw [decodeMcr_eq]
  split
  next cp => rw [show cp15Write (field w 16 4) = none from (mcrGeneral_iff _).1 h cp]; rfl
  next => rfl

theorem decodeWord_mrc (a : Crt) (h : a.mrcGeneral = true) : decodeWord (a.toWord 1#1) = .ok (.mrc a) := by
  have general : (Crt.ofWord (a.toWord 1#1)).mrcGeneral = true := by rwa [Crt.ofWord_toWord]
  calc decodeWord (a.toWord 1#1) = .ok (decodeMrc (a.toWord 1#1)) := decodeWord_registerTransfer true a
    _ = .ok (.mrc a) := by rw [decodeMrc_of_general general, Crt.ofWord_toWord]

theorem decodeWord_mcr (a : Crt) (h : a.mcrGeneral = true) : decodeWord (a.toWord 0#1) = .ok (.mcr a) := by
  have general : (Crt.ofWord (a.toWord 0#1)).mcrGeneral = true := by rwa [Crt.ofWord_toWord]
  calc decodeWord (a.toWord 0#1) = .ok (decodeMcr (a.toWord 0#1)) := decodeWord_registerTransfer false a
    _ = .ok (.mcr a) := by rw [decodeMcr_of_general general, Crt.ofWord_toWord]

theorem field_cp15_crn (load : BitVec 1) (crn : BitVec 4) (a : Cp15Args) : field (a.toWord load crn) 16 4 = crn := by
  simp [Cp15Args.toWord, Crt.toWord, field_or]

theorem field_cp15_cp (load : BitVec 1) (crn : BitVec 4) (a : Cp15Args) : field (a.toWord load crn) 8 4 = 15#4 := by
  simp [Cp15Args.toWord, Crt.toWord, field_or]

theorem decodeWord_cp15Read {crn : BitVec 4} {row : Cp15Args → Instr} (h : cp15Read crn = some row)
    (a : Cp15Args) : decodeWord (a.toWord 1#1 crn) = .ok (row a) := by
  calc decodeWord (a.toWord 1#1 crn) = .ok (decodeMrc (a.toWord 1#1 crn)) := decodeWord_registerTransfer true _
    _ = .ok (row a) := by
      rw [decodeMrc_eq, if_pos (field_cp15_cp _ _ a), field_cp15_crn, h, Cp15Args.ofWord_toWord]; rfl

theorem decodeWord_cp15Write {crn : BitVec 4} {row : Cp15Args → Instr} (h : cp15Write crn = some row)
    (a : Cp15Args) : decodeWord (a.toWord 0#1 crn) = .ok (row a) := by
  calc decodeWord (a.toWord 0#1 crn) = .ok (decodeMcr (a.toWord 0#1 crn)) := decodeWord_registerTransfer false _
    _ = .ok (row a) := by
      rw [decodeMcr_eq, if_pos (field_cp15_cp _ _ a), field_cp15_crn, h, Cp15Args.ofWord_toWord]; rfl

/-! ### Encode, then decode -/

theorem decodeWord_encode {i : Instr} (h : i.wellFormed = true) : decodeWord (encode i) = .ok i := by
  cases i with
  | andImm a | eorImm a | subImm a | rsbImm a | addImm a | adcImm a | sbcImm a | rscImm a | orrImm a | movImm a
  | bicImm a | mvnImm a => exact decodeWord_dpImm _ a nofun
  | tstImm a | teqImm a | cmpImm a | cmnImm a => exact decodeWord_dpImm _ _ fun _ => rfl
  | andShift a | eorShift a | subShift a | rsbShift a | addShift a | adcShift a | sbcShift a | rscShift a
  | orrShift a | movShift a | bicShift a | mvnShift a => exact decodeWord_dpShift _ a nofun
  | tstShift a | teqShift a | cmpShift a | cmnShift a => exact decodeWord_dpShift _ _ fun _ => rfl
  | andRegShift a | eorRegShift a | subRegShift a | rsbRegShift a | addRegShift a | adcRegShift a | sbcRegShift a
  | rscRegShift a | orrRegShift a | movRegShift a | bicRegShift a | mvnRegShift a =>
    exact decodeWord_dpRegShift _ a nofun
  | tstRegShift a | teqRegShift a | cmpRegShift a | cmnRegShift a => exact decodeWord_dpRegShift _ _ fun _ => rfl
  | mrs a => exact decodeWord_mrs a
  | msr a => exact decodeWord_msrRegister _ a (.inl rfl)
  | msrFlgReg a => exact decodeWord_msrRegister _ a (.inr rfl)
  | msrFlgImm a => exact decodeWord_msrFlgImm a
  | mul a => exact decodeWord_multiply false a
  | mla a => exact decodeWord_multiply true a
  | swp a => exact decodeWord_swap false a
  | swpb a => exact decodeWord_swap true a
  | ldrImm a => exact decodeWord_sdtImm false true a
  | ldrbImm a => exact decodeWord_sdtImm true true a
  | strImm a => exact decodeWord_sdtImm false false a
  | strbImm a => exact decodeWord_sdtImm true false a
  | ldrReg a => exact decodeWord_sdtReg false true a
  | ldrbReg a => exact decodeWord_sdtReg true true a
  | strReg a => exact decodeWord_sdtReg false false a
  | strbReg a => exact decodeWord_sdtReg true false a
  | undefined a => exact decodeWord_undefined a
  | ldm a => exact decodeWord_blockTransfer true a
  | stm a => exact decodeWord_blockTransfer false a
  | b a => exact decodeWord_branch false a
  | bl a => exact decodeWord_branch true a
  | ldc a => exact decodeWord_coprocTransfer true a
  | stc a => exact decodeWord_coprocTransfer false a
  | cdp a => exact decodeWord_cdp a
  | mrc a => exact decodeWord_mrc a h
  | mcr a => exact decodeWord_mcr a h
  | swi a => exact decodeWord_swi a
  | mrcId a | mrcFsr a | mrcFar a => exact decodeWord_cp15Read rfl a
  | mcrControl a | mcrTtb a | mcrDacr a | mcrTlbFlush a | mcrTlbPurge a | mcrIdcFlush a =>
    exact decodeWord_cp15Write rfl a

theorem decodeWord_of_encode {w : Word} {i : Instr} (wellFormed : i.wellFormed = true) (h : encode i = w) :
    decodeWord w = .ok i :=
  h ▸ decodeWord_encode wellFormed

theorem decode_lanesOfWord {w : Word} {i : Instr} (h : decodeWord w = .ok i) (rest : List Byte) :
    decode (lanesOfWord w ++ rest) = .ok (i, rest) := by
  rw [lanesOfWord]
  simp only [List.cons_append, List.nil_append, decode, wordOfLanes_fields, h]

/-- Settles O1: the decoder reads back each format's fields, and the tests of R222 lead it to the format. -/
theorem encodeThenDecode : Obligations.EncodeThenDecode := by
  intro i rest wellFormed
  exact decode_lanesOfWord (decodeWord_encode wellFormed) rest

end Sys2Proof
end

section
/-! A word that decodes is put together again from the fields that its format reads. -/

namespace Sys2Proof
open Machine

/-! ### A word and its fields -/

/-- The bits of a word from `lo` up, the ones below cleared. -/
def highBits (w : Word) (lo : Nat) : Word := w >>> lo <<< lo

@[simp] theorem highBits_or_place {n hi lo : Nat} (w : Word) (h : hi = lo + n) :
    highBits w hi ||| place lo (field w lo n) = highBits w lo := by
  ext i inWord
  simp [highBits, place, h]
  grind

@[simp] theorem Cond.toBits_ofBits (c : BitVec 4) : (Cond.ofBits c).toBits = c := by revert c; decide

@[simp] theorem place_condOf (w : Word) : place 28 (condOf w).toBits = highBits w 28 := by
  calc place 28 (condOf w).toBits = highBits w 32 ||| place 28 (field w 28 4) := by
        simp [condOf, highBits]
    _ = highBits w 28 := highBits_or_place w rfl

@[simp] theorem highBits_zero (w : Word) : highBits w 0 = w := by simp [highBits]

@[simp] theorem ofBool1_wbit (w : Word) (i : Nat) : ofBool1 (wbit w i) = field w i 1 := by
  ext j hj
  obtain rfl : j = 0 := by omega
  simp [ofBool1, wbit]

@[simp] theorem ShiftType.toBits_ofBits (c : BitVec 2) : (ShiftType.ofBits c).toBits = c := by revert c; decide

@[simp] theorem AluOp.toBits_ofBits (c : BitVec 4) : (AluOp.ofBits c).toBits = c := by revert c; decide

/-! ### The fields of each format make up its word -/

theorem DpImm.toWord_ofWord {w : Word} (class1 : field w 25 3 = 1#3) :
    (DpImm.ofWord w).toWord (AluOp.ofBits (field w 21 4)) = w := by
  rw [DpImm.toWord, ← class1]
  simp [DpImm.ofWord]

theorem DpShift.toWord_ofWord {w : Word} (class0 : field w 25 3 = 0#3) (bit4 : field w 4 1 = 0#1) :
    (DpShift.ofWord w).toWord (AluOp.ofBits (field w 21 4)) = w := by
  rw [DpShift.toWord, ← class0, ← bit4]
  simp [DpShift.ofWord]

theorem DpRegShift.toWord_ofWord {w : Word} (class0 : field w 25 3 = 0#3) (bit7 : field w 7 1 = 0#1)
    (bit4 : field w 4 1 = 1#1) :
    (DpRegShift.ofWord w).toWord (AluOp.ofBits (field w 21 4)) = w := by
  rw [DpRegShift.toWord, ← class0, ← bit7, ← bit4]
  simp [DpRegShift.ofWord]

theorem MrsArgs.toWord_ofWord {w : Word} (opcode : field w 23 5 = 0b00010#5) (ones : field w 16 6 = 0b001111#6)
    (zeros : field w 0 12 = 0#12) :
    (MrsArgs.ofWord w).toWord = w := by
  rw [MrsArgs.toWord, ← opcode, ← ones, ← zeros]
  simp [MrsArgs.ofWord]

theorem MsrRegArgs.toWord_ofWord {w : Word} (opcode : field w 23 5 = 0b00010#5) (zeros : field w 4 8 = 0#8) :
    (MsrRegArgs.ofWord w).toWord (field w 12 10) = w := by
  rw [MsrRegArgs.toWord, ← opcode, ← zeros]
  simp [MsrRegArgs.ofWord]

theorem MsrImmArgs.toWord_ofWord {w : Word} (opcode : field w 23 5 = 0b00110#5)
    (fields : field w 12 10 = 0b1010001111#10) :
    (MsrImmArgs.ofWord w).toWord = w := by
  rw [MsrImmArgs.toWord, ← opcode, ← fields]
  simp [MsrImmArgs.ofWord]

theorem MulArgs.toWord_ofWord {w : Word} (accumulate : Bool) (zeros : field w 22 6 = 0b000000#6)
    (mark : field w 4 4 = 0b1001#4) (bit21 : wbit w 21 = accumulate) :
    (MulArgs.ofWord w).toWord (ofBool1 accumulate) = w := by
  rw [MulArgs.toWord, ← bit21, ← zeros, ← mark]
  simp [MulArgs.ofWord]

theorem SwpArgs.toWord_ofWord {w : Word} (byte : Bool) (opcode : field w 23 5 = 0b00010#5)
    (zeros : field w 20 2 = 0b00#2) (mark : field w 4 8 = 0b00001001#8) (bit22 : wbit w 22 = byte) :
    (SwpArgs.ofWord w).toWord (ofBool1 byte) = w := by
  rw [SwpArgs.toWord, ← bit22, ← opcode, ← zeros, ← mark]
  simp [SwpArgs.ofWord]

theorem SdtImm.toWord_ofWord {w : Word} (byte load : Bool) (class2 : field w 25 3 = 2#3) (bit22 : wbit w 22 = byte)
    (bit20 : wbit w 20 = load) :
    (SdtImm.ofWord w).toWord (ofBool1 byte) (ofBool1 load) = w := by
  rw [SdtImm.toWord, ← bit22, ← bit20, ← class2]
  simp [SdtImm.ofWord]

theorem SdtReg.toWord_ofWord {w : Word} (byte load : Bool) (class3 : field w 25 3 = 3#3) (bit4 : field w 4 1 = 0#1)
    (bit22 : wbit w 22 = byte) (bit20 : wbit w 20 = load) :
    (SdtReg.ofWord w).toWord (ofBool1 byte) (ofBool1 load) = w := by
  rw [SdtReg.toWord, ← bit22, ← bit20, ← class3, ← bit4]
  simp [SdtReg.ofWord]

theorem UndefArgs.toWord_ofWord {w : Word} (class3 : field w 25 3 = 3#3) (bit4 : field w 4 1 = 1#1) :
    (UndefArgs.ofWord w).toWord = w := by
  rw [UndefArgs.toWord, ← class3, ← bit4]
  simp [UndefArgs.ofWord]

theorem Bdt.toWord_ofWord {w : Word} (load : Bool) (class4 : field w 25 3 = 4#3) (bit20 : wbit w 20 = load) :
    (Bdt.ofWord w).toWord (ofBool1 load) = w := by
  rw [Bdt.toWord, ← bit20, ← class4]
  simp [Bdt.ofWord]

theorem BranchArgs.toWord_ofWord {w : Word} (link : Bool) (class5 : field w 25 3 = 5#3) (bit24 : wbit w 24 = link) :
    (BranchArgs.ofWord w).toWord (ofBool1 link) = w := by
  rw [BranchArgs.toWord, ← bit24, ← class5]
  simp [BranchArgs.ofWord]

theorem Cdt.toWord_ofWord {w : Word} (load : Bool) (class6 : field w 25 3 = 6#3) (bit20 : wbit w 20 = load) :
    (Cdt.ofWord w).toWord (ofBool1 load) = w := by
  rw [Cdt.toWord, ← bit20, ← class6]
  simp [Cdt.ofWord]

theorem Cdo.toWord_ofWord {w : Word} (opcode : field w 24 4 = 0b1110#4) (bit4 : field w 4 1 = 0#1) :
    (Cdo.ofWord w).toWord = w := by
  rw [Cdo.toWord, ← opcode, ← bit4]
  simp [Cdo.ofWord]

theorem Crt.toWord_ofWord {w : Word} (load : Bool) (opcode : field w 24 4 = 0b1110#4) (bit4 : field w 4 1 = 1#1)
    (bit20 : wbit w 20 = load) :
    (Crt.ofWord w).toWord (ofBool1 load) = w := by
  rw [Crt.toWord, ← bit20, ← opcode, ← bit4]
  simp [Crt.ofWord]

theorem SwiArgs.toWord_ofWord {w : Word} (opcode : field w 24 4 = 0b1111#4) :
    (SwiArgs.ofWord w).toWord = w := by
  rw [SwiArgs.toWord, ← opcode]
  simp [SwiArgs.ofWord]

theorem Cp15Args.toWord_ofWord {w : Word} (load : Bool) (opcode : field w 24 4 = 0b1110#4)
    (bit4 : field w 4 1 = 1#1) (bit20 : wbit w 20 = load) (cp : field w 8 4 = 15#4) :
    (Cp15Args.ofWord w).toWord (ofBool1 load) (field w 16 4) = w := by
  rw [Cp15Args.toWord, ← cp]
  exact Crt.toWord_ofWord load opcode bit4 bit20

/-! ### What the decoder answers -/

/-- The instruction is well-formed and the word is its encoding. -/
def IsWordOf (w : Word) (i : Instr) : Prop := i.wellFormed = true ∧ encode i = w

theorem isWordOf_ite {w : Word} {b : Bool} {i j : Instr} (hi : b = true → IsWordOf w i)
    (hj : b = false → IsWordOf w j) : IsWordOf w (if b then i else j) := by
  cases b with
  | true => exact hi rfl
  | false => exact hj rfl

theorem isWordOf_dpImm {w : Word} {op : AluOp} {a : DpImm} (s : aluWrites op = false → a.s = true)
    (h : a.toWord op = w) : IsWordOf w (dpImm op a) := by
  obtain ⟨cond, s', rn, rd, rotate, imm⟩ := a
  cases op with
  | tst | teq | cmp | cmn => obtain rfl : s' = true := s rfl; exact ⟨rfl, h⟩
  | _ => exact ⟨rfl, h⟩

theorem isWordOf_dpShift {w : Word} {op : AluOp} {a : DpShift} (s : aluWrites op = false → a.s = true)
    (h : a.toWord op = w) : IsWordOf w (dpShift op a) := by
  obtain ⟨cond, s', rn, rd, amount, type, rm⟩ := a
  cases op with
  | tst | teq | cmp | cmn => obtain rfl : s' = true := s rfl; exact ⟨rfl, h⟩
  | _ => exact ⟨rfl, h⟩

theorem isWordOf_dpRegShift {w : Word} {op : AluOp} {a : DpRegShift} (s : aluWrites op = false → a.s = true)
    (h : a.toWord op = w) : IsWordOf w (dpRegShift op a) := by
  obtain ⟨cond, s', rn, rd, rs, type, rm⟩ := a
  cases op with
  | tst | teq | cmp | cmn => obtain rfl : s' = true := s rfl; exact ⟨rfl, h⟩
  | _ => exact ⟨rfl, h⟩

theorem isWordOf_decodeMultiplySpace {w : Word} {i : Instr} (h : decodeMultiplySpace w = .ok i) :
    IsWordOf w i := by
  by_cases multiply : field w 22 6 = 0b000000#6 ∧ field w 4 4 = 0b1001#4
  · obtain ⟨zeros, mark⟩ := multiply
    rw [decodeMultiplySpace, if_pos ⟨zeros, mark⟩] at h
    cases h
    exact isWordOf_ite (fun bit => ⟨rfl, MulArgs.toWord_ofWord true zeros mark bit⟩)
      fun bit => ⟨rfl, MulArgs.toWord_ofWord false zeros mark bit⟩
  · rw [decodeMultiplySpace, if_neg multiply] at h
    split at h
    next swap =>
      obtain ⟨opcode, zeros, mark⟩ := swap
      cases h
      exact isWordOf_ite (fun bit => ⟨rfl, SwpArgs.toWord_ofWord true opcode zeros mark bit⟩)
        fun bit => ⟨rfl, SwpArgs.toWord_ofWord false opcode zeros mark bit⟩
    next => nomatch h

theorem isWordOf_decodePsrSpace {w : Word} {i : Instr} (h : decodePsrSpace w = .ok i) : IsWordOf w i := by
  unfold decodePsrSpace at h
  split_ifs at h with mrs msr msrFlgReg msrFlgImm
  · obtain ⟨opcode, ones, zeros⟩ := mrs
    cases h
    exact ⟨rfl, MrsArgs.toWord_ofWord opcode ones zeros⟩
  · obtain ⟨opcode, fields, zeros⟩ := msr
    cases h
    exact ⟨rfl, (congrArg (MsrRegArgs.ofWord w).toWord fields).symm.trans (MsrRegArgs.toWord_ofWord opcode zeros)⟩
  · obtain ⟨opcode, fields, zeros⟩ := msrFlgReg
    cases h
    exact ⟨rfl, (congrArg (MsrRegArgs.ofWord w).toWord fields).symm.trans (MsrRegArgs.toWord_ofWord opcode zeros)⟩
  · obtain ⟨opcode, fields⟩ := msrFlgImm
    cases h
    exact ⟨rfl, MsrImmArgs.toWord_ofWord opcode fields⟩

theorem isWordOf_decodeSdtImm {w : Word} (class2 : field w 25 3 = 2#3) :
    IsWordOf w (decodeSdtImm w) := by
  unfold decodeSdtImm
  split
  next byte load => exact ⟨rfl, SdtImm.toWord_ofWord false true class2 byte load⟩
  next byte load => exact ⟨rfl, SdtImm.toWord_ofWord true true class2 byte load⟩
  next byte load => exact ⟨rfl, SdtImm.toWord_ofWord false false class2 byte load⟩
  next byte load => exact ⟨rfl, SdtImm.toWord_ofWord true false class2 byte load⟩

theorem isWordOf_decodeSdtReg {w : Word} (class3 : field w 25 3 = 3#3) (bit4 : field w 4 1 = 0#1) :
    IsWordOf w (decodeSdtReg w) := by
  unfold decodeSdtReg
  split
  next byte load => exact ⟨rfl, SdtReg.toWord_ofWord false true class3 bit4 byte load⟩
  next byte load => exact ⟨rfl, SdtReg.toWord_ofWord true true class3 bit4 byte load⟩
  next byte load => exact ⟨rfl, SdtReg.toWord_ofWord false false class3 bit4 byte load⟩
  next byte load => exact ⟨rfl, SdtReg.toWord_ofWord true false class3 bit4 byte load⟩

theorem isWordOf_cp15Read {w : Word} {crn : BitVec 4} {a : Cp15Args} {row : Cp15Args → Instr}
    (h : cp15Read crn = some row) (word : a.toWord 1#1 crn = w) : IsWordOf w (row a) := by
  have code : crn = BitVec.ofNat 4 crn.toNat := by simp
  unfold cp15Read at h
  split at h
  case h_4 => nomatch h
  all_goals
    next value =>
      cases h
      rw [value] at code
      subst code
      exact ⟨rfl, word⟩

theorem isWordOf_cp15Write {w : Word} {crn : BitVec 4} {a : Cp15Args} {row : Cp15Args → Instr}
    (h : cp15Write crn = some row) (word : a.toWord 0#1 crn = w) : IsWordOf w (row a) := by
  have code : crn = BitVec.ofNat 4 crn.toNat := by simp
  unfold cp15Write at h
  split at h
  case h_7 => nomatch h
  all_goals
    next value =>
      cases h
      rw [value] at code
      subst code
      exact ⟨rfl, word⟩

theorem isWordOf_decodeMrc {w : Word} (opcode : field w 24 4 = 0b1110#4) (bit4 : field w 4 1 = 1#1)
    (bit20 : wbit w 20 = true) : IsWordOf w (decodeMrc w) := by
  rw [decodeMrc_eq]
  split
  next cp =>
    cases row : cp15Read (field w 16 4) with
    | none => exact ⟨(mrcGeneral_iff _).2 fun _ => row, Crt.toWord_ofWord true opcode bit4 bit20⟩
    | some make =>
      show IsWordOf w (make (Cp15Args.ofWord w))
      exact isWordOf_cp15Read row (Cp15Args.toWord_ofWord true opcode bit4 bit20 cp)
  next cp => exact ⟨(mrcGeneral_iff _).2 fun is15 => absurd is15 cp, Crt.toWord_ofWord true opcode bit4 bit20⟩

theorem isWordOf_decodeMcr {w : Word} (opcode : field w 24 4 = 0b1110#4) (bit4 : field w 4 1 = 1#1)
    (bit20 : wbit w 20 = false) : IsWordOf w (decodeMcr w) := by
  rw [decodeMcr_eq]
  split
  next cp =>
    cases row : cp15Write (field w 16 4) with
    | none => exact ⟨(mcrGeneral_iff _).2 fun _ => row, Crt.toWord_ofWord false opcode bit4 bit20⟩
    | some make =>
      show IsWordOf w (make (Cp15Args.ofWord w))
      exact isWordOf_cp15Write row (Cp15Args.toWord_ofWord false opcode bit4 bit20 cp)
  next cp => exact ⟨(mcrGeneral_iff _).2 fun is15 => absurd is15 cp, Crt.toWord_ofWord false opcode bit4 bit20⟩

theorem field_one {w : Word} {i : Nat} {b : Bool} (h : wbit w i = b) : field w i 1 = ofBool1 b := by
  rw [← h, ofBool1_wbit]

theorem field_class7 {w : Word} {b : Bool} (class7 : field w 25 3 = 7#3) (bit24 : wbit w 24 = b) :
    field w 24 4 = 7#3 ++ ofBool1 b := by
  rw [← class7, ← field_one bit24]
  exact field_split w 24 3 1

theorem isWordOf_class0 {w : Word} {i : Instr} (class0 : field w 25 3 = 0#3) (h : decodeWord w = .ok i) :
    IsWordOf w i := by
  rw [decodeWord_class0 class0] at h
  split at h
  next => exact isWordOf_decodeMultiplySpace h
  next notBoth =>
  split at h
  next => exact isWordOf_decodePsrSpace h
  next notPsr =>
  have s := inPsrSpace_eq_false_iff.1 (Bool.eq_false_iff.2 notPsr)
  cases h
  refine isWordOf_ite (fun bit4 => ?_) fun bit4 => ?_
  · have bit7 : wbit w 7 = false := by simpa [bit4] using notBoth
    rw [decodeDpRegShift_eq]
    exact isWordOf_dpRegShift s (DpRegShift.toWord_ofWord class0 (field_one bit7) (field_one bit4))
  · rw [decodeDpShift_eq]
    exact isWordOf_dpShift s (DpShift.toWord_ofWord class0 (field_one bit4))

theorem isWordOf_class1 {w : Word} {i : Instr} (class1 : field w 25 3 = 1#3) (h : decodeWord w = .ok i) :
    IsWordOf w i := by
  rw [decodeWord_class1 class1] at h
  split_ifs at h with psr
  · exact isWordOf_decodePsrSpace h
  · cases h
    rw [decodeDpImm_eq]
    exact isWordOf_dpImm (inPsrSpace_eq_false_iff.1 (Bool.eq_false_iff.2 psr)) (DpImm.toWord_ofWord class1)

theorem isWordOf_class7 {w : Word} {i : Instr} (class7 : field w 25 3 = 7#3) (h : decodeWord w = .ok i) :
    IsWordOf w i := by
  rw [decodeWord_class7 class7] at h
  cases h
  refine isWordOf_ite (fun bit24 => ⟨rfl, SwiArgs.toWord_ofWord (field_class7 class7 bit24)⟩) fun bit24 => ?_
  have opcode : field w 24 4 = 0b1110#4 := field_class7 class7 bit24
  refine isWordOf_ite (fun clear => ?_) fun notClear => ?_
  · have bit4 : wbit w 4 = false := by simpa using clear
    exact ⟨rfl, Cdo.toWord_ofWord opcode (field_one bit4)⟩
  · have bit4 : wbit w 4 = true := by simpa using notClear
    exact isWordOf_ite (isWordOf_decodeMrc opcode (field_one bit4)) (isWordOf_decodeMcr opcode (field_one bit4))

theorem isWordOf_decodeWord {w : Word} {i : Instr} (h : decodeWord w = .ok i) : IsWordOf w i := by
  rcases class_cases (field w 25 3) with c | c | c | c | c | c | c | c
  · exact isWordOf_class0 c h
  · exact isWordOf_class1 c h
  · rw [decodeWord_class2 c] at h
    cases h
    exact isWordOf_decodeSdtImm c
  · rw [decodeWord_class3 c] at h
    cases h
    exact isWordOf_ite (fun bit4 => ⟨rfl, UndefArgs.toWord_ofWord c (field_one bit4)⟩)
      fun bit4 => isWordOf_decodeSdtReg c (field_one bit4)
  · rw [decodeWord_class4 c] at h
    cases h
    exact isWordOf_ite (fun bit => ⟨rfl, Bdt.toWord_ofWord true c bit⟩)
      fun bit => ⟨rfl, Bdt.toWord_ofWord false c bit⟩
  · rw [decodeWord_class5 c] at h
    cases h
    exact isWordOf_ite (fun bit => ⟨rfl, BranchArgs.toWord_ofWord true c bit⟩)
      fun bit => ⟨rfl, BranchArgs.toWord_ofWord false c bit⟩
  · rw [decodeWord_class6 c] at h
    cases h
    exact isWordOf_ite (fun bit => ⟨rfl, Cdt.toWord_ofWord true c bit⟩)
      fun bit => ⟨rfl, Cdt.toWord_ofWord false c bit⟩
  · exact isWordOf_class7 c h

/-- Settles O2: in each class the fields that the decoder reads and the bits that it tests make up the whole word. -/
theorem decodeThenEncode : Obligations.DecodeThenEncode := fun _ _ => isWordOf_decodeWord

end Sys2Proof
end

section
/-! The words that are no instruction (R257), and the words that the spec prints. -/

namespace Sys2Proof

/-! ### The multiply space -/

theorem decodeMultiplySpace_error_iff_tests (w : Word) : (∃ r, decodeMultiplySpace w = .error r) ↔
    ¬(field w 22 6 = 0b000000#6 ∧ field w 4 4 = 0b1001#4)
      ∧ ¬(field w 23 5 = 0b00010#5 ∧ field w 20 2 = 0b00#2 ∧ field w 4 8 = 0b00001001#8) := by
  unfold decodeMultiplySpace
  split_ifs <;> simp [*]

/-- Bits 7:4 of a word with bits 7 and 4 set. -/
theorem field_mark {w : Word} (bit7 : wbit w 7 = true) (bit4 : wbit w 4 = true) :
    field w 4 4 = 1#1 ++ (field w 5 2 ++ 1#1) :=
  calc field w 4 4 = field w 7 1 ++ field w 4 3 := field_split w 4 1 3
    _ = field w 7 1 ++ (field w 5 2 ++ field w 4 1) := by rw [← field_split w 4 2 1]
    _ = 1#1 ++ (field w 5 2 ++ 1#1) := by rw [field_one bit7, field_one bit4]; rfl

theorem field_mark_iff {w : Word} (bit7 : wbit w 7 = true) (bit4 : wbit w 4 = true) :
    field w 4 4 = 0b1001#4 ↔ field w 5 2 = 0b00#2 := by
  have same : ∀ t : BitVec 2, 1#1 ++ (t ++ 1#1) = 0b1001#4 ↔ t = 0b00#2 := by decide
  rw [field_mark bit7 bit4]
  exact same _

theorem field_swapMark_iff {w : Word} (bit7 : wbit w 7 = true) (bit4 : wbit w 4 = true) :
    field w 4 8 = 0b00001001#8 ↔ field w 8 4 = 0b0000#4 ∧ field w 5 2 = 0b00#2 := by
  have same : ∀ (r : BitVec 4) (t : BitVec 2),
      r ++ (1#1 ++ (t ++ 1#1)) = 0b00001001#8 ↔ r = 0b0000#4 ∧ t = 0b00#2 := by decide
  rw [show field w 4 8 = field w 8 4 ++ field w 4 4 from field_split w 4 4 4, field_mark bit7 bit4]
  exact same _ _

/-- R257 (a), for the words of class 000 with bits 7 and 4 set. -/
theorem decodeMultiplySpace_error_iff {w : Word} (class0 : field w 25 3 = 0#3) (bit7 : wbit w 7 = true)
    (bit4 : wbit w 4 = true) : (∃ r, decodeMultiplySpace w = .error r) ↔
      (field w 5 2 ≠ 0b00#2 ∨ field w 22 6 = 0b000001#6 ∨ field w 23 5 = 0b00001#5
        ∨ (field w 23 5 = 0b00010#5 ∧ (field w 20 2 ≠ 0b00#2 ∨ field w 8 4 ≠ 0b0000#4))
        ∨ field w 23 5 = 0b00011#5) := by
  have high : field w 23 5 = 0#3 ++ field w 23 2 := class0 ▸ field_split w 23 3 2
  have highest : field w 22 6 = 0#3 ++ (field w 23 2 ++ field w 22 1) :=
    calc field w 22 6 = field w 25 3 ++ field w 22 3 := field_split w 22 3 3
      _ = 0#3 ++ (field w 23 2 ++ field w 22 1) := by rw [class0, ← field_split w 22 2 1]
  have twoBits : ∀ h : BitVec 2, h = 0#2 ∨ h = 1#2 ∨ h = 2#2 ∨ h = 3#2 := by decide
  have oneBit : ∀ b : BitVec 1, b = 0#1 ∨ b = 1#1 := by decide
  rw [decodeMultiplySpace_error_iff_tests, field_mark_iff bit7 bit4, field_swapMark_iff bit7 bit4, high, highest]
  rcases twoBits (field w 23 2) with h | h | h | h <;> rcases oneBit (field w 22 1) with b | b
  all_goals
    rw [h, b]
    simp <;> tauto

/-! ### The PSR transfers -/

theorem decodePsrSpace_error_iff_tests (w : Word) : (∃ r, decodePsrSpace w = .error r) ↔
    ¬(field w 23 5 = 0b00010#5 ∧ field w 16 6 = 0b001111#6 ∧ field w 0 12 = 0#12)
      ∧ ¬(field w 23 5 = 0b00010#5 ∧ field w 12 10 = 0b1010011111#10 ∧ field w 4 8 = 0#8)
      ∧ ¬(field w 23 5 = 0b00010#5 ∧ field w 12 10 = 0b1010001111#10 ∧ field w 4 8 = 0#8)
      ∧ ¬(field w 23 5 = 0b00110#5 ∧ field w 12 10 = 0b1010001111#10) := by
  unfold decodePsrSpace
  split_ifs <;> simp [*]

theorem and_or_eq_iff (w v m m' : Word) :
    w &&& (m ||| m') = v &&& (m ||| m') ↔ w &&& m = v &&& m ∧ w &&& m' = v &&& m' := by
  constructor
  · intro h
    have only (n : Word) (inside : (m ||| m') &&& n = n) : w &&& n = v &&& n := by
      rw [← inside, ← BitVec.and_assoc, h, BitVec.and_assoc]
    exact ⟨only m (by ext; simp; tauto), only m' (by ext; simp; tauto)⟩
  · rintro ⟨h, h'⟩
    rw [BitVec.and_or_distrib_left, BitVec.and_or_distrib_left, h, h']

/-- A mask of the bits of one field compares that field. -/
theorem and_place_eq_iff (w v : Word) (lo n : Nat) (inWord : lo + n ≤ 32) :
    w &&& place lo (BitVec.allOnes n) = v &&& place lo (BitVec.allOnes n) ↔ field w lo n = field v lo n := by
  have masked (u : Word) : u &&& place lo (BitVec.allOnes n) = place lo (field u lo n) := by
    ext i hi
    simp [place]
    grind
  rw [masked, masked]
  refine ⟨fun h => ?_, congrArg (place lo)⟩
  rw [← field_place_same lo (field w lo n) inWord, h, field_place_same lo _ inWord]

theorem and_mrsMask_eq_iff (w v : Word) : w &&& 0x0FBF0FFF#32 = v &&& 0x0FBF0FFF#32 ↔
    field w 23 5 = field v 23 5 ∧ field w 16 6 = field v 16 6 ∧ field w 0 12 = field v 0 12 := by
  have fields : 0x0FBF0FFF#32
      = place 23 (BitVec.allOnes 5) ||| (place 16 (BitVec.allOnes 6) ||| place 0 (BitVec.allOnes 12)) := rfl
  simp only [fields, and_or_eq_iff, and_place_eq_iff, Nat.reduceAdd, Nat.reduceLeDiff]

theorem and_msrMask_eq_iff (w v : Word) : w &&& 0x0FBFFFF0#32 = v &&& 0x0FBFFFF0#32 ↔
    field w 23 5 = field v 23 5 ∧ field w 12 10 = field v 12 10 ∧ field w 4 8 = field v 4 8 := by
  have fields : 0x0FBFFFF0#32
      = place 23 (BitVec.allOnes 5) ||| (place 12 (BitVec.allOnes 10) ||| place 4 (BitVec.allOnes 8)) := rfl
  simp only [fields, and_or_eq_iff, and_place_eq_iff, Nat.reduceAdd, Nat.reduceLeDiff]

theorem and_msrFlgImmMask_eq_iff (w v : Word) : w &&& 0x0FBFF000#32 = v &&& 0x0FBFF000#32 ↔
    field w 23 5 = field v 23 5 ∧ field w 12 10 = field v 12 10 := by
  have fields : 0x0FBFF000#32 = place 23 (BitVec.allOnes 5) ||| place 12 (BitVec.allOnes 10) := rfl
  simp only [fields, and_or_eq_iff, and_place_eq_iff, Nat.reduceAdd, Nat.reduceLeDiff]

/-- R257 (b), for the words of a test opcode with S clear: none of the four masks of R226 fits. -/
theorem decodePsrSpace_error_iff (w : Word) : (∃ r, decodePsrSpace w = .error r) ↔
    w &&& 0x0FBF0FFF#32 ≠ 0x010F0000#32 ∧ w &&& 0x0FBFFFF0#32 ≠ 0x0129F000#32
      ∧ w &&& 0x0FBFFFF0#32 ≠ 0x0128F000#32 ∧ w &&& 0x0FBFF000#32 ≠ 0x0328F000#32 := by
  have mrs := and_mrsMask_eq_iff w 0x010F0000#32
  have msr := and_msrMask_eq_iff w 0x0129F000#32
  have msrFlgReg := and_msrMask_eq_iff w 0x0128F000#32
  have msrFlgImm := and_msrFlgImmMask_eq_iff w 0x0328F000#32
  rw [decodePsrSpace_error_iff_tests]
  exact (not_congr mrs.symm).and ((not_congr msr.symm).and
    ((not_congr msrFlgReg.symm).and (not_congr msrFlgImm.symm)))

theorem inPsrSpace_iff {w : Word} : inPsrSpace w = true ↔ field w 23 2 = 0b10#2 ∧ wbit w 20 = false := by
  simp [inPsrSpace]

/-! ### Every word -/

/-- Only the multiply space and the PSR space hold words that are no instruction. -/
theorem decodeWord_error_iff (w : Word) : (∃ r, decodeWord w = .error r) ↔
    (field w 25 3 = 0b000#3 ∧ wbit w 7 = true ∧ wbit w 4 = true ∧ ∃ r, decodeMultiplySpace w = .error r)
    ∨ (((field w 25 3 = 0b000#3 ∧ ¬(wbit w 7 = true ∧ wbit w 4 = true)) ∨ field w 25 3 = 0b001#3)
      ∧ inPsrSpace w = true ∧ ∃ r, decodePsrSpace w = .error r) := by
  rcases class_cases (field w 25 3) with c | c | c | c | c | c | c | c
  · rw [decodeWord_class0 c, c]
    cases wbit w 7 with
    | false => cases inPsrSpace w <;> simp
    | true =>
      cases wbit w 4 with
      | false => cases inPsrSpace w <;> simp
      | true => simp
  · rw [decodeWord_class1 c, c]
    cases inPsrSpace w <;> simp
  · simp [decodeWord_class2 c, c]
  · simp [decodeWord_class3 c, c]
  · simp [decodeWord_class4 c, c]
  · simp [decodeWord_class5 c, c]
  · simp [decodeWord_class6 c, c]
  · simp [decodeWord_class7 c, c]

/-- Settles O4: classes 2 to 7 reject no word, and classes 0 and 1 only those of the multiply space and the PSR space
that fit none of the formats there. -/
theorem unallocatedWords : Obligations.UnallocatedWords := by
  intro w
  rw [decodeWord_error_iff, decodePsrSpace_error_iff, inPsrSpace_iff, and_assoc]
  exact or_congr_left (and_congr_right fun class0 => and_congr_right fun bit7 => and_congr_right fun bit4 =>
    decodeMultiplySpace_error_iff class0 bit7 bit4)

/-- Settles O3: each printed word is the encoding of the instruction that the spec says it is. -/
theorem specWordsDecode : Obligations.SpecWordsDecode := by
  unfold Obligations.SpecWordsDecode
  and_intros <;> exact decodeWord_of_encode rfl rfl

end Sys2Proof
end

section
/-! Conditions and branches: the condition table and its complements, what every instruction does when its condition
fails, and the targets of B and BL. -/

namespace Sys2Proof

/-! ### The condition table -/

/-- The opposite condition: the codes of R281 come in pairs that differ in the last bit. -/
def Cond.opposite : Cond → Cond
  | .eq => .ne | .ne => .eq | .cs => .cc | .cc => .cs | .mi => .pl | .pl => .mi | .vs => .vc | .vc => .vs
  | .hi => .ls | .ls => .hi | .ge => .lt | .lt => .ge | .gt => .le | .le => .gt | .al => .nv | .nv => .al

theorem Cond.ofBits_xor_one (c : BitVec 4) : Cond.ofBits (c ^^^ 1#4) = (Cond.ofBits c).opposite := by
  revert c
  decide

end Sys2Proof

namespace Sys2Proof.Machine

theorem condPassed_opposite (c : Cond) (p : Cpsr) : condPassed c.opposite p = !condPassed c p := by
  cases c <;> simp [Cond.opposite, condPassed, bne]

theorem condPassed_ofBits_xor_one (c : BitVec 4) (p : Cpsr) :
    condPassed (Cond.ofBits (c ^^^ 1#4)) p = true ↔ ¬condPassed (Cond.ofBits c) p = true := by
  rw [Cond.ofBits_xor_one, condPassed_opposite, Bool.not_eq_true', Bool.not_eq_true]

/-- Settles O10: the codes that end in 0 are read off the definition, and each of the others is the complement of the
code before it. -/
theorem conditionTable : Obligations.ConditionTable := by
  intro p passed
  have complement (c : BitVec 4) : passed (c ^^^ 1#4) ↔ ¬passed c := condPassed_ofBits_xor_one c p
  have clear (flag : Bool) : ¬flag = true ↔ flag = false := Iff.of_eq (Bool.not_eq_true flag)
  have hi : passed 0b1000#4 ↔ p.c = true ∧ p.z = false := by simp [passed, Cond.ofBits, condPassed]
  have ge : passed 0b1010#4 ↔ p.n = p.v := by simp [passed, Cond.ofBits, condPassed]
  have gt : passed 0b1100#4 ↔ p.z = false ∧ p.n = p.v := by simp [passed, Cond.ofBits, condPassed]
  have ls : ¬(p.c = true ∧ p.z = false) ↔ p.c = false ∨ p.z = true := by simp [imp_iff_not_or]
  have le : ¬(p.z = false ∧ p.n = p.v) ↔ p.z = true ∨ p.n ≠ p.v := by simp [imp_iff_not_or]
  exact ⟨Iff.rfl, (complement 0b0000#4).trans (clear _), Iff.rfl, (complement 0b0010#4).trans (clear _),
    Iff.rfl, (complement 0b0100#4).trans (clear _), Iff.rfl, (complement 0b0110#4).trans (clear _),
    hi, (complement 0b1000#4).trans (hi.not.trans ls), ge, (complement 0b1010#4).trans ge.not,
    gt, (complement 0b1100#4).trans (gt.not.trans le), rfl, Bool.false_ne_true, fun _ => rfl, complement⟩

/-! ### A condition that fails -/

/-- Every instruction is executed under its condition: R280 holds by the shape of each arm of `exec`. -/
theorem exec_eq_whenPassed (i : Instr) (s : State) : ∃ k, exec i s = whenPassed (instrCond i) s k := by
  cases i <;> exact ⟨_, rfl⟩

theorem whenPassed_of_failed {c : Cond} {s : State} {k : Result} (h : condPassed c s.cpsr = false) :
    whenPassed c s k = .next s.advance := if_neg (Bool.not_eq_true _ ▸ h)

/-- Settles O11: the arm of the instruction is never entered. -/
theorem failedConditionSkips : Obligations.FailedConditionSkips := by
  intro i s failed
  obtain ⟨k, guarded⟩ := exec_eq_whenPassed i s
  exact guarded.trans (whenPassed_of_failed failed)

/-! ### Branches -/

theorem laneBits_eq_zero_iff {v : Word} : laneBits v = 0#2 ↔ v.toNat % 4 = 0 := by
  rw [← BitVec.toNat_inj, laneBits_toNat]
  rfl

theorem laneBits_add {v w : Word} (hv : laneBits v = 0#2) (hw : laneBits w = 0#2) : laneBits (v + w) = 0#2 := by
  rw [laneBits_eq_zero_iff] at *
  rw [BitVec.toNat_add]
  omega

theorem laneBits_shiftLeft_two (w : Word) : laneBits (w <<< 2) = 0#2 := by
  rw [laneBits_eq_zero_iff, BitVec.toNat_shiftLeft, Nat.shiftLeft_eq]
  omega

theorem laneBits_branchTarget {pc : Word} (aligned : laneBits pc = 0#2) (offset : BitVec 24) :
    laneBits (branchTarget pc offset) = 0#2 :=
  laneBits_add (laneBits_add aligned rfl) (laneBits_shiftLeft_two _)

/-- The target as the sum of R283, modulo 2^32 (D3). -/
theorem branchTarget_eq_ofInt (pc : Word) (offset : BitVec 24) :
    branchTarget pc offset = BitVec.ofInt 32 (pc.toNat + 8 + 4 * offset.toInt) := by
  have scaled : offset.signExtend 32 <<< 2 = BitVec.ofInt 32 (4 * offset.toInt) := by
    rw [BitVec.ofInt_mul, BitVec.shiftLeft_eq_mul_twoPow, BitVec.mul_comm]
    rfl
  rw [branchTarget, scaled, BitVec.ofInt_add, BitVec.ofInt_add]
  simp

theorem branchTo_aligned {s : State} {v : Word} (h : laneBits v = 0#2) :
    s.branchTo v = { s with pc := v, prefetch := [] } := by
  rw [State.branchTo, wordAddr_of_aligned h]

/-- Settles O38: the target is `branchTarget`, and the branch discards none of its bits because it is aligned. -/
theorem branches : Obligations.Branches := by
  intro a s passed aligned target
  have sum : branchTarget s.pc a.offset = target := branchTarget_eq_ofInt s.pc a.offset
  have targetAligned : laneBits target = 0#2 := sum ▸ laneBits_branchTarget aligned a.offset
  have goes (u : State) : u.branchTo (branchTarget s.pc a.offset) = { u with pc := target, prefetch := [] } := by
    rw [sum, branchTo_aligned targetAligned]
  refine ⟨targetAligned, (whenPassed_of_passed passed).trans ?_, (whenPassed_of_passed passed).trans ?_⟩
  · rw [goes]
  · rw [goes]
    rfl

end Sys2Proof.Machine
end

section
/-! Data processing: the sums of the adder as the arithmetic of the spec, the one shape that all sixteen operations and
three operand forms have, and its ends. -/

namespace Sys2Proof.Machine

/-! ### The adder -/

theorem carryWord_toNat (c : Bool) : (carryWord c).toNat = if c then 1 else 0 := by cases c <;> rfl

/-- The adder's result and flags for `a + b + C` (R303, R304). -/
theorem addWithCarry_eq (a b : Word) (c : Bool) : addWithCarry a b c =
    ⟨a + b + carryWord c, decide (2 ^ 32 ≤ a.toNat + b.toNat + (carryWord c).toNat),
      signedOverflow (a.toInt + b.toInt + (carryWord c).toNat)⟩ := by
  have sum : BitVec.ofNat 32 (a.toNat + b.toNat + (carryWord c).toNat) = a + b + carryWord c := by
    simp [BitVec.ofNat_add]
  rw [← sum, carryWord_toNat]
  cases c <;> rfl

theorem toInt_not_eq (b : Word) : (~~~b).toInt = -b.toInt - 1 := by
  have bounded := b.isLt
  rw [BitVec.toInt_eq_toNat_cond, BitVec.toInt_eq_toNat_cond, BitVec.toNat_not]
  split_ifs <;> omega

/-- The adder with the second operand inverted subtracts with borrow (R304, R326). -/
theorem addWithCarry_not (a b : Word) (c : Bool) : addWithCarry a (~~~b) c =
    ⟨a - b + carryWord c - 1#32, decide (b.toNat + 1 ≤ a.toNat + (carryWord c).toNat),
      signedOverflow (a.toInt - b.toInt + (carryWord c).toNat - 1)⟩ := by
  have difference : a + ~~~b + carryWord c = a - b + carryWord c - 1#32 := by
    rw [BitVec.not_eq_neg_add]
    ring
  have carry : 2 ^ 32 ≤ a.toNat + (~~~b).toNat + (carryWord c).toNat
      ↔ b.toNat + 1 ≤ a.toNat + (carryWord c).toNat := by
    have bounded := b.isLt
    rw [BitVec.toNat_not]
    omega
  have signed : a.toInt + (~~~b).toInt + (carryWord c).toNat = a.toInt - b.toInt + (carryWord c).toNat - 1 := by
    rw [toInt_not_eq]
    omega
  rw [addWithCarry_eq, difference, decide_eq_decide.2 carry, signed]

/-- What the operation's arm of the model computes from its operands: for the logical class the shifter carry-out and the
old V, for the arithmetic class the adder (R302, R303). -/
def aluComputed (op : AluOp) (x : Word) (b : Shifted) (p : Cpsr) : AluOut :=
  match op with
  | .and | .tst => ⟨x &&& b.value, b.carry, p.v⟩
  | .eor | .teq => ⟨x ^^^ b.value, b.carry, p.v⟩
  | .sub | .cmp => addWithCarry x (~~~b.value) true
  | .rsb => addWithCarry b.value (~~~x) true
  | .add | .cmn => addWithCarry x b.value false
  | .adc => addWithCarry x b.value p.c
  | .sbc => addWithCarry x (~~~b.value) p.c
  | .rsc => addWithCarry b.value (~~~x) p.c
  | .orr => ⟨x ||| b.value, b.carry, p.v⟩
  | .mov => ⟨b.value, b.carry, p.v⟩
  | .bic => ⟨x &&& ~~~b.value, b.carry, p.v⟩
  | .mvn => ⟨~~~b.value, b.carry, p.v⟩

theorem addWithCarry_add (a b : Word) : addWithCarry a b false =
    ⟨a + b, decide (2 ^ 32 ≤ a.toNat + b.toNat), signedOverflow (a.toInt + b.toInt)⟩ := by
  simp [addWithCarry_eq, carryWord]

theorem addWithCarry_sub (a b : Word) : addWithCarry a (~~~b) true =
    ⟨a - b, decide (b.toNat ≤ a.toNat), signedOverflow (a.toInt - b.toInt)⟩ := by
  simp [addWithCarry_not, carryWord]

/-- Every operation computes the result and the flags that the spec gives it. -/
theorem aluComputed_eq (op : AluOp) (x : Word) (b : Shifted) (p : Cpsr) : aluComputed op x b p =
    ⟨aluResult op x b.value p.c, aluCarry op x b.value p.c b.carry, aluOverflow op x b.value p.c p.v⟩ := by
  cases op with
  | and | eor | tst | teq | orr | mov | bic | mvn => rfl
  | sub | cmp => exact addWithCarry_sub x b.value
  | rsb => exact addWithCarry_sub b.value x
  | add | cmn => exact addWithCarry_add x b.value
  | adc => exact addWithCarry_eq x b.value p.c
  | sbc => exact addWithCarry_not x b.value p.c
  | rsc => exact addWithCarry_not b.value x p.c

/-- The CPSR that an operation's arm computes is that of R303. -/
theorem arithmetic_aluComputed (op : AluOp) (x : Word) (b : Shifted) (p : Cpsr) :
    p.arithmetic (aluComputed op x b p) = aluFlags op p x b.value b.carry := by
  rw [aluComputed_eq]
  rfl

/-! ### The shape of every operation -/

/-- The end of an operation on its operands: a result and flags, or the flags alone (R302, R328). -/
def State.dpEnd (s : State) (op : AluOp) (sBit : Bool) (rd : RegNum) (x : Word) (b : Shifted) : Result :=
  if aluWrites op then s.dpWrite sBit rd (aluResult op x b.value s.cpsr.c) (aluFlags op s.cpsr x b.value b.carry)
  else s.dpTest rd (aluFlags op s.cpsr x b.value b.carry)

/-- The same as each arm of the model writes it, with what it computes in place of the spec's arithmetic. -/
def State.dpComputed (s : State) (op : AluOp) (sBit : Bool) (rd : RegNum) (o : AluOut) : Result :=
  if aluWrites op then s.dpArithmetic sBit rd o else s.dpTest rd (s.cpsr.arithmetic o)

theorem dpComputed_eq_dpEnd (s : State) (op : AluOp) (sBit : Bool) (rd : RegNum) (x : Word) (b : Shifted) :
    s.dpComputed op sBit rd (aluComputed op x b s.cpsr) = s.dpEnd op sBit rd x b := by
  unfold State.dpComputed State.dpArithmetic State.dpEnd
  rw [arithmetic_aluComputed, aluComputed_eq]

theorem exec_dpImm (op : AluOp) (a : DpImm) (s : State) : exec (dpImm op a) s = whenPassed a.cond s
    (s.dpEnd op a.s a.rd (s.readReg .rn a.rn 8#32) (operandImm a.rotate a.imm s.cpsr.c)) := by
  rw [← dpComputed_eq_dpEnd]
  cases op <;> rfl

theorem exec_dpShift (op : AluOp) (a : DpShift) (s : State) : exec (dpShift op a) s = whenPassed a.cond s
    (s.dpEnd op a.s a.rd (s.readReg .rn a.rn 8#32)
      (shiftImm (s.readReg .rm a.rm 8#32) a.type a.amount s.cpsr.c)) := by
  rw [← dpComputed_eq_dpEnd]
  cases op <;> rfl

/-- A shift by a register refuses Rs = R15 before anything else (R307). -/
theorem exec_dpRegShift (op : AluOp) (a : DpRegShift) (s : State) : exec (dpRegShift op a) s = whenPassed a.cond s
    (unlessRefused (pcRefusal (a.rs == 15#4)) (s.dpEnd op a.s a.rd (s.readReg .rn a.rn 12#32)
      (shiftReg (s.readReg .rm a.rm 12#32) a.type (field (s.readReg .rs a.rs 12#32) 0 8) s.cpsr.c))) := by
  rw [← dpComputed_eq_dpEnd]
  cases op <;> rfl

theorem exec_dpImm_passed {op : AluOp} {a : DpImm} {s : State} (passed : condPassed a.cond s.cpsr = true) :
    exec (dpImm op a) s =
      s.dpEnd op a.s a.rd (s.readReg .rn a.rn 8#32) (operandImm a.rotate a.imm s.cpsr.c) := by
  rw [exec_dpImm, whenPassed_of_passed passed]

theorem exec_dpShift_passed {op : AluOp} {a : DpShift} {s : State} (passed : condPassed a.cond s.cpsr = true) :
    exec (dpShift op a) s = s.dpEnd op a.s a.rd (s.readReg .rn a.rn 8#32)
      (shiftImm (s.readReg .rm a.rm 8#32) a.type a.amount s.cpsr.c) := by
  rw [exec_dpShift, whenPassed_of_passed passed]

theorem exec_dpRegShift_passed {op : AluOp} {a : DpRegShift} {s : State} (passed : condPassed a.cond s.cpsr = true)
    (rs : a.rs ≠ 15#4) : exec (dpRegShift op a) s = s.dpEnd op a.s a.rd (s.readReg .rn a.rn 12#32)
      (shiftReg (s.readReg .rm a.rm 12#32) a.type (field (s.readReg .rs a.rs 12#32) 0 8) s.cpsr.c) := by
  rw [exec_dpRegShift, whenPassed_of_passed passed, beq_false_of_ne rs]
  rfl

/-! ### The copy of the SPSR -/

section
variable {s : State} {p : Psr}

theorem restoreCpsr_user (absent : s.spsrOf s.cpsr.mode = none) : s.restoreCpsr = .refused .spsrInUser := by
  rw [State.restoreCpsr, State.spsr, absent]

theorem restoreCpsr_noMode (held : s.spsrOf s.cpsr.mode = some p) (invalid : modeOfBits p.m = none) :
    s.restoreCpsr = .refused .invalidMode := by
  have unrestored : restorePsr p = none := by rw [restorePsr, invalid]
  simp only [State.restoreCpsr, State.spsr, held, unrestored]

theorem restoreCpsr_mode {m : Mode} (held : s.spsrOf s.cpsr.mode = some p) (valid : modeOfBits p.m = some m) :
    s.restoreCpsr = .next { s with cpsr := ⟨p.n, p.z, p.c, p.v, p.i, p.f, m⟩ } := by
  have restored : restorePsr p = some ⟨p.n, p.z, p.c, p.v, p.i, p.f, m⟩ := by rw [restorePsr, valid]
  simp only [State.restoreCpsr, State.spsr, held, restored]

/-- The return is the jump and the copy in one step (R319, R545). -/
theorem returnTo_eq_returnOutcome (s : State) (v : Word) : s.returnTo v = s.returnOutcome v := by
  unfold State.returnOutcome
  cases held : s.spsrOf s.cpsr.mode with
  | none => exact restoreCpsr_user (s := s.branchTo v) held
  | some p =>
    dsimp only
    cases mode : modeOfBits p.m with
    | none => exact restoreCpsr_noMode (s := s.branchTo v) held mode
    | some m => exact restoreCpsr_mode (s := s.branchTo v) held mode

/-- What a test with Rd = R15 does (R336): in a privileged mode the SPSR goes to the CPSR, in User mode nothing. -/
def State.copySpsr (s : State) : Result := if s.privileged then s.advance.restoreCpsr else .next s.advance

theorem copySpsr_user (user : s.cpsr.mode = .usr) : s.copySpsr = .next { s with pc := s.pc + 4#32 } := by
  rw [State.copySpsr, State.privileged, user]
  rfl

/-- Only the privileged modes have an SPSR (R44). -/
theorem privileged_of_spsrOf (held : s.spsrOf s.cpsr.mode = some p) : s.privileged = true := by
  unfold State.privileged
  cases mode : s.cpsr.mode with
  | usr => rw [mode] at held; cases held
  | fiq | irq | svc | abt | und => rfl

theorem copySpsr_privileged (held : s.spsrOf s.cpsr.mode = some p) : s.copySpsr = s.advance.restoreCpsr :=
  if_pos (privileged_of_spsrOf held)

end

/-! ### The ends -/

section
variable {s : State} {op : AluOp} {sBit : Bool} {rd : RegNum} {x : Word} {b : Shifted}

/-- A result to a register other than R15 (R302, R303). -/
theorem dpEnd_register (writes : aluWrites op = true) (h : rd ≠ 15#4) : s.dpEnd op sBit rd x b = .next { s with
    regs := s.regs.set (phys s.cpsr.mode rd) (aluResult op x b.value s.cpsr.c)
    cpsr := if sBit then aluFlags op s.cpsr x b.value b.carry else s.cpsr
    pc := s.pc + 4#32 } := by
  rw [State.dpEnd, if_pos writes, State.dpWrite, if_neg h]
  rfl

/-- A result to R15 with S clear (R318, R41). -/
theorem dpEnd_jump (writes : aluWrites op = true) (h : rd = 15#4) (clearS : sBit = false) :
    s.dpEnd op sBit rd x b =
      .next { s with pc := wordAddr (aluResult op x b.value s.cpsr.c), prefetch := [] } := by
  rw [State.dpEnd, if_pos writes, State.dpWrite, if_pos h, clearS]
  rfl

/-- A result to R15 with S set (R319). -/
theorem dpEnd_return (writes : aluWrites op = true) (h : rd = 15#4) (setS : sBit = true) :
    s.dpEnd op sBit rd x b = s.returnOutcome (aluResult op x b.value s.cpsr.c) := by
  rw [State.dpEnd, if_pos writes, State.dpWrite, if_pos h, setS, if_pos rfl, returnTo_eq_returnOutcome]

/-- The flags of a test (R328 to R331). -/
theorem dpEnd_flags (tests : aluWrites op = false) (h : rd ≠ 15#4) : s.dpEnd op sBit rd x b =
    .next { s with cpsr := aluFlags op s.cpsr x b.value b.carry, pc := s.pc + 4#32 } := by
  rw [State.dpEnd, if_neg (Bool.eq_false_iff.1 tests), State.dpTest, if_neg h]
  rfl

/-- A test with Rd = R15 (R336). -/
theorem dpEnd_copySpsr (tests : aluWrites op = false) (h : rd = 15#4) : s.dpEnd op sBit rd x b = s.copySpsr := by
  rw [State.dpEnd, if_neg (Bool.eq_false_iff.1 tests), State.dpTest, if_pos h]
  rfl

end

/-! ### The statements -/

/-- Settles O14: every form of a writing operation ends in its register. -/
theorem dataProcessingResults : Obligations.DataProcessingResults :=
  ⟨fun _ _ _ writes passed rd => (exec_dpImm_passed passed).trans (dpEnd_register writes rd),
    fun _ _ _ writes passed rd => (exec_dpShift_passed passed).trans (dpEnd_register writes rd),
    fun _ _ _ writes passed rd rs => (exec_dpRegShift_passed passed rs).trans (dpEnd_register writes rd)⟩

/-- Settles O15: every form of a test ends in the flags, or for Rd = R15 in the copy of the SPSR. -/
theorem testsWriteFlags : Obligations.TestsWriteFlags := by
  refine ⟨fun op s tests => ⟨fun a passed rd => (exec_dpImm_passed passed).trans (dpEnd_flags tests rd),
    fun a passed rd => (exec_dpShift_passed passed).trans (dpEnd_flags tests rd),
    fun a passed rd rs => (exec_dpRegShift_passed passed rs).trans (dpEnd_flags tests rd)⟩,
    fun op s i tests form => ?_⟩
  have copies : exec i s = s.copySpsr := by
    obtain ⟨a, rfl, passed, rd⟩ | ⟨a, rfl, passed, rd⟩ | ⟨a, rfl, passed, rd, rs⟩ := form
    · exact (exec_dpImm_passed passed).trans (dpEnd_copySpsr tests rd)
    · exact (exec_dpShift_passed passed).trans (dpEnd_copySpsr tests rd)
    · exact (exec_dpRegShift_passed passed rs).trans (dpEnd_copySpsr tests rd)
  rw [copies]
  refine ⟨copySpsr_user, fun p held => ?_⟩
  rw [copySpsr_privileged held]
  exact ⟨fun m valid => restoreCpsr_mode (s := s.advance) held valid, restoreCpsr_noMode (s := s.advance) held⟩

/-- Settles O16: every form of a writing operation with Rd = R15 ends in the jump, or with S set in the return. -/
theorem dataProcessingToPc : Obligations.DataProcessingToPc :=
  ⟨fun _ _ writes =>
    ⟨fun _ passed rd clearS => (exec_dpImm_passed passed).trans (dpEnd_jump writes rd clearS),
      fun _ passed rd clearS => (exec_dpShift_passed passed).trans (dpEnd_jump writes rd clearS),
      fun _ passed rd clearS rs => (exec_dpRegShift_passed passed rs).trans (dpEnd_jump writes rd clearS)⟩,
    fun _ _ writes =>
    ⟨fun _ passed rd setS => (exec_dpImm_passed passed).trans (dpEnd_return writes rd setS),
      fun _ passed rd setS => (exec_dpShift_passed passed).trans (dpEnd_return writes rd setS),
      fun _ passed rd setS rs => (exec_dpRegShift_passed passed rs).trans (dpEnd_return writes rd setS)⟩⟩

end Sys2Proof.Machine
end

section
/-! The operands that "shall not be" used: each instruction tests them before it does anything else. -/

namespace Sys2Proof.Machine

/-- The test for R15 comes before the rest of the instruction. -/
theorem refused_of_pcOperand {c : Cond} {s : State} {named : Bool} {k : Result} (passed : condPassed c s.cpsr = true)
    (h : named = true) : whenPassed c s (unlessRefused (pcRefusal named) k) = .refused .pcOperand := by
  rw [whenPassed_of_passed passed, h]
  rfl

theorem unlessRefused_pcRefusal {named : Bool} {k : Result} (h : named = false) :
    unlessRefused (pcRefusal named) k = k := by
  rw [h]
  rfl

theorem spsr_user {s : State} (user : s.cpsr.mode = .usr) : s.spsr = none := by
  rw [State.spsr, user]
  rfl

theorem writeSpsr_user {s : State} (user : s.cpsr.mode = .usr) (p : Psr → Psr) :
    s.writeSpsr p = .refused .spsrInUser := by
  simp only [State.writeSpsr, spsr_user user]

theorem writePsrFlags_user {s : State} (user : s.cpsr.mode = .usr) (w : Word) :
    s.writePsrFlags true w = .refused .spsrInUser := writeSpsr_user user _

/-- MRS of the SPSR in User mode (R357). -/
theorem exec_mrs_user {s : State} {a : MrsArgs} (passed : condPassed a.cond s.cpsr = true) (rd : a.rd ≠ 15#4)
    (spsr : a.spsr = true) (user : s.cpsr.mode = .usr) : exec (.mrs a) s = .refused .spsrInUser := by
  refine (whenPassed_of_passed passed).trans ((unlessRefused_pcRefusal (beq_false_of_ne rd)).trans ?_)
  simp only [spsr, spsr_user user, if_true]

/-- MSR to the SPSR in User mode, from a register (R357). -/
theorem exec_msr_user {s : State} {a : MsrRegArgs} (passed : condPassed a.cond s.cpsr = true) (rm : a.rm ≠ 15#4)
    (spsr : a.spsr = true) (user : s.cpsr.mode = .usr) :
    exec (.msr a) s = .refused .spsrInUser ∧ exec (.msrFlgReg a) s = .refused .spsrInUser := by
  constructor
  · refine (whenPassed_of_passed passed).trans ((unlessRefused_pcRefusal (beq_false_of_ne rm)).trans ?_)
    exact (if_pos spsr).trans (writeSpsr_user user _)
  · refine (whenPassed_of_passed passed).trans ((unlessRefused_pcRefusal (beq_false_of_ne rm)).trans ?_)
    rw [spsr, writePsrFlags_user user]

/-- Settles O17: the tests for R15 of each instruction, then the SPSR that User mode does not have. -/
theorem operandsThatAreRefused : Obligations.OperandsThatAreRefused := by
  intro s
  refine ⟨fun op a passed rs => ?_, fun a passed rd => refused_of_pcOperand passed (beq_iff_eq.2 rd),
    fun a => exec_mrs_user, fun a passed rm => ?_, fun a => exec_msr_user, fun a passed spsr user => ?_,
    fun a passed => ⟨fun named => ?_, fun named => ?_⟩, fun a passed named => ?_⟩
  · rw [exec_dpRegShift]
    exact refused_of_pcOperand passed (beq_iff_eq.2 rs)
  · have named : (a.rm == 15#4) = true := beq_iff_eq.2 rm
    exact ⟨refused_of_pcOperand passed named, refused_of_pcOperand passed named⟩
  · refine (whenPassed_of_passed passed).trans ?_
    rw [spsr, writePsrFlags_user user]
  · exact refused_of_pcOperand passed (by simpa [or_assoc] using named)
  · exact refused_of_pcOperand passed (by simpa [or_assoc] using named)
  · have named : (a.rd == 15#4 || a.rm == 15#4 || a.rn == 15#4) = true := by simpa [or_assoc] using named
    exact ⟨refused_of_pcOperand passed named, refused_of_pcOperand passed named⟩

end Sys2Proof.Machine
end

section
/-! The barrel shifter: each shift as arithmetic on the operand and as the bit that becomes the carry. -/

namespace Sys2Proof.Machine

/-! ### Rotations and sign fills -/

/-- A rotation right moves each bit down by the amount, modulo 32. -/
theorem getLsbD_rotateRight (v : Word) (n : Nat) {i : Nat} (h : i < 32) :
    (v.rotateRight n).getLsbD i = v.getLsbD ((i + n) % 32) := by
  rw [BitVec.getLsbD_rotateRight]
  by_cases below : i < 32 - n % 32
  · rw [decide_eq_true below, cond_true]
    congr 1
    omega
  · rw [decide_eq_false below, cond_false, decide_eq_true h, Bool.true_and]
    congr 1
    omega

theorem rotateRight_zero (v : Word) : v.rotateRight 0 = v :=
  BitVec.eq_of_getLsbD_eq fun i inWord => by rw [getLsbD_rotateRight v 0 inWord, Nat.add_zero, Nat.mod_eq_of_lt inWord]

/-- RRX: the carry comes in at the top of the word shifted right by one (R305). -/
theorem getLsbD_rrx (v : Word) (cin : Bool) (i : Nat) (h : i < 32) :
    (place 31 (ofBool1 cin) ||| v >>> 1).getLsbD i = if i = 31 then cin else v.getLsbD (i + 1) := by
  have inserted := wbit_or (place 31 (ofBool1 cin)) (v >>> 1) i
  have shifted : wbit (v >>> 1) i = v.getLsbD (i + 1) := by simp [wbit, Nat.add_comm]
  refine inserted.trans ?_
  rw [shifted]
  split_ifs with top
  · rw [top, wbit_place_ofBool1 31 cin (by omega), BitVec.getLsbD_of_ge v 32 (Nat.le_refl 32), Bool.or_false]
  · rw [wbit_place_below 31 _ i (by omega), Bool.false_or]

theorem fill_toInt (b : Bool) : (fill b).toInt = if b then -1 else 0 := by cases b <;> rfl

theorem shiftLeft_toNat_mul (v : Word) (n : Nat) : (v <<< n).toNat = v.toNat * 2 ^ n % 2 ^ 32 := by
  rw [BitVec.toNat_shiftLeft, Nat.shiftLeft_eq]

theorem ushiftRight_toNat_div (v : Word) (n : Nat) : (v >>> n).toNat = v.toNat / 2 ^ n := by
  rw [BitVec.toNat_ushiftRight, Nat.shiftRight_eq_div_pow]

theorem sshiftRight_toInt_div (v : Word) (n : Nat) : (v.sshiftRight n).toInt = v.toInt / 2 ^ n := by
  rw [BitVec.toInt_sshiftRight, Int.shiftRight_eq_div_pow]
  norm_cast

theorem getLsbD_fill (b : Bool) {i : Nat} (h : i < 32) : (fill b).getLsbD i = b := by
  cases b with
  | false => exact BitVec.getLsbD_zero
  | true => exact (BitVec.getLsbD_allOnes (v := 32)).trans (decide_eq_true h)

/-- An arithmetic shift by 32 places and more leaves the sign alone (R306). -/
theorem sshiftRight_of_le (v : Word) {n : Nat} (h : 32 ≤ n) : v.sshiftRight n = fill v.msb := by
  refine BitVec.eq_of_getLsbD_eq fun i inWord => ?_
  rw [BitVec.getLsbD_sshiftRight, getLsbD_fill _ inWord, if_neg (by omega), decide_eq_false (by omega)]
  rfl

theorem wbit_top (v : Word) : wbit v 31 = v.msb := (BitVec.msb_eq_getLsbD_last v).symm

/-! ### Shifts by an amount in the instruction -/

theorem shiftImm_of_ne_zero {n : BitVec 5} (h : n ≠ 0#5) (v : Word) (type : ShiftType) (cin : Bool) :
    shiftImm v type n cin = shiftBy v type n.toNat := if_neg h

/-- LSL in all its amounts (R305). -/
theorem shiftImm_lsl (v : Word) (n : BitVec 5) (cin : Bool) :
    shiftImm v .lsl n cin = ⟨v <<< n.toNat, if n = 0#5 then cin else v.getLsbD (32 - n.toNat)⟩ := by
  by_cases h : n = 0#5
  · rw [h, if_pos rfl]
    exact congrArg (Shifted.mk · cin) (BitVec.shiftLeft_zero v).symm
  · rw [shiftImm_of_ne_zero h, if_neg h]
    rfl

theorem getLsbD_rotatedImm (rotate : BitVec 4) (imm : Byte) {i : Nat} (h : i < 32) :
    (rotatedImm rotate imm).getLsbD i = imm.getLsbD ((i + 2 * rotate.toNat) % 32) := by
  rw [rotatedImm, getLsbD_rotateRight _ _ h, BitVec.getLsbD_setWidth, decide_eq_true (Nat.mod_lt _ (by omega)),
    Bool.true_and]

/-- Settles O18: LSL, the other three types by an amount that is not 0 and by the amount 0, and the rotated immediate. -/
theorem shiftByInstruction : Obligations.ShiftByInstruction := by
  refine ⟨fun v n cin => ⟨?_, ?_, fun amount => ?_, ?_⟩,
    fun rotate imm cin => ⟨fun i => getLsbD_rotatedImm rotate imm, ?_⟩⟩
  · rw [shiftImm_lsl, shiftLeft_toNat_mul]
  · rw [shiftImm_lsl]
  · simp only [shiftImm_of_ne_zero amount]
    exact ⟨ushiftRight_toNat_div v _, rfl, sshiftRight_toInt_div v _, rfl, fun i => getLsbD_rotateRight v _, rfl⟩
  · rintro rfl
    refine ⟨rfl, wbit_top v, wbit_top v ▸ fill_toInt _, wbit_top v, ?_, fun i below => ?_, rfl⟩
    · exact (getLsbD_rrx v cin 31 (by omega)).trans (if_pos rfl)
    · exact (getLsbD_rrx v cin i (by omega)).trans (if_neg (by omega))
  · rw [← wbit_top]
    rfl

/-! ### Shifts by the bottom byte of a register -/

section
variable (v : Word) {n : Byte} (cin : Bool)

theorem toNat_ne_zero (nonzero : n ≠ 0#8) : n.toNat ≠ 0 := fun e => nonzero (BitVec.eq_of_toNat_eq e)

theorem shiftReg_of_lt (type : ShiftType) (nonzero : n ≠ 0#8) (small : n.toNat < 32) :
    shiftReg v type n cin = shiftBy v type n.toNat :=
  (if_neg (toNat_ne_zero nonzero)).trans (if_pos small)

/-- LSL by 32 has the bottom bit as its carry, by more none (R306). -/
theorem shiftReg_lsl (nonzero : n ≠ 0#8) : shiftReg v .lsl n cin =
    ⟨v <<< n.toNat, decide (n.toNat ≤ 32) && v.getLsbD (32 - n.toNat)⟩ := by
  rcases lt_trichotomy n.toNat 32 with small | word | large
  · rw [shiftReg_of_lt v cin .lsl nonzero small, decide_eq_true small.le]
    rfl
  · have amount : n = 32#8 := BitVec.eq_of_toNat_eq word
    subst amount
    rw [BitVec.shiftLeft_eq_zero (Nat.le_of_eq word.symm)]
    rfl
  · rw [BitVec.shiftLeft_eq_zero large.le, decide_eq_false large.not_ge]
    simp [shiftReg, toNat_ne_zero nonzero, large.not_gt, large.ne']

/-- LSR by 32 has the top bit as its carry, by more none (R306). -/
theorem shiftReg_lsr (nonzero : n ≠ 0#8) : shiftReg v .lsr n cin =
    ⟨v >>> n.toNat, decide (n.toNat ≤ 32) && v.getLsbD (n.toNat - 1)⟩ := by
  rcases lt_trichotomy n.toNat 32 with small | word | large
  · rw [shiftReg_of_lt v cin .lsr nonzero small, decide_eq_true small.le]
    rfl
  · have amount : n = 32#8 := BitVec.eq_of_toNat_eq word
    subst amount
    rw [BitVec.ushiftRight_eq_zero (Nat.le_of_eq word.symm)]
    rfl
  · rw [BitVec.ushiftRight_eq_zero large.le, decide_eq_false large.not_ge]
    simp [shiftReg, toNat_ne_zero nonzero, large.not_gt, large.ne']

/-- ASR by 32 and more gives the sign and has it as its carry (R306). -/
theorem shiftReg_asr (nonzero : n ≠ 0#8) : shiftReg v .asr n cin =
    ⟨v.sshiftRight n.toNat, v.getLsbD (min n.toNat 32 - 1)⟩ := by
  rcases lt_or_ge n.toNat 32 with small | large
  · rw [shiftReg_of_lt v cin .asr nonzero small, Nat.min_eq_left small.le]
    rfl
  · rw [sshiftRight_of_le v large, Nat.min_eq_right large, ← wbit_top]
    simp [shiftReg, toNat_ne_zero nonzero, large.not_gt, wbit]

/-- ROR turns the amount modulo 32, and by a multiple of 32 leaves the word with its top bit as carry (R306). -/
theorem shiftReg_ror (nonzero : n ≠ 0#8) : shiftReg v .ror n cin =
    ⟨v.rotateRight n.toNat, v.getLsbD ((n.toNat + 31) % 32)⟩ := by
  have positive := toNat_ne_zero nonzero
  rcases lt_or_ge n.toNat 32 with small | large
  · have carry : (n.toNat + 31) % 32 = n.toNat - 1 := by omega
    rw [shiftReg_of_lt v cin .ror nonzero small, carry]
    rfl
  · rw [← BitVec.rotateRight_mod_eq_rotateRight]
    by_cases turns : n.toNat % 32 = 0
    · have carry : (n.toNat + 31) % 32 = 31 := by omega
      rw [carry, turns, rotateRight_zero]
      simp [shiftReg, positive, large.not_gt, turns, wbit]
    · have carry : (n.toNat + 31) % 32 = n.toNat % 32 - 1 := by omega
      rw [carry]
      simp [shiftReg, positive, large.not_gt, turns, wbit, shiftBy]

theorem shiftBy_zero_value (type : ShiftType) : (shiftBy v type 0).value = v := by
  cases type with
  | lsl => exact BitVec.shiftLeft_zero v
  | lsr => exact BitVec.ushiftRight_zero v
  | asr => exact BitVec.sshiftRight_zero
  | ror => exact rotateRight_zero v

/-- The value is that of the same shift by any amount, 0 and 32 and more among them. -/
theorem shiftReg_value (type : ShiftType) : (shiftReg v type n cin).value = (shiftBy v type n.toNat).value := by
  by_cases zero : n = 0#8
  · subst zero
    exact (shiftBy_zero_value v type).symm
  · cases type with
    | lsl => rw [shiftReg_lsl v cin zero]; rfl
    | lsr => rw [shiftReg_lsr v cin zero]; rfl
    | asr => rw [shiftReg_asr v cin zero]; rfl
    | ror => rw [shiftReg_ror v cin zero]; rfl

end

/-- Settles O19: the values at all amounts, the carry of the amount 0, and the carry of each type at the others. -/
theorem shiftByRegister : Obligations.ShiftByRegister := by
  intro v n cin
  simp only [shiftReg_value]
  refine ⟨shiftLeft_toNat_mul v _, ushiftRight_toNat_div v _, sshiftRight_toInt_div v _,
    fun i => getLsbD_rotateRight v _, ?_, fun nonzero => ?_⟩
  · rintro rfl type
    rfl
  · rw [shiftReg_lsl v cin nonzero, shiftReg_lsr v cin nonzero, shiftReg_asr v cin nonzero,
      shiftReg_ror v cin nonzero]
    exact ⟨rfl, rfl, rfl, rfl⟩

end Sys2Proof.Machine
end

section
/-! Instructions that store nothing: what each end of an instruction leaves of memory with the buffered writes performed,
then the loads and the runs of loads, whose accesses are reads. -/

namespace Sys2Proof.Machine

/-! ### The memory that an outcome leaves -/

/-- The outcome's next state, where it has one, has the memory of `s`, the buffered writes performed. -/
def KeepsMemory (s : State) (r : Result) : Prop := ∀ t, r = .next t → t.settledMem = s.settledMem

section
variable {s u : State}

theorem keepsMemory_next {t : State} (h : t.settledMem = s.settledMem) : KeepsMemory s (.next t) := by
  rintro _ ⟨⟩
  exact h

theorem keepsMemory_refused (r : Refusal) : KeepsMemory s (.refused r) := by
  intro t e
  cases e

theorem KeepsMemory.of_settled {r : Result} (h : KeepsMemory u r) (same : u.settledMem = s.settledMem) :
    KeepsMemory s r := fun t e => (h t e).trans same

theorem keepsMemory_whenPassed {c : Cond} {k : Result} (h : KeepsMemory s k) : KeepsMemory s (whenPassed c s k) := by
  intro t e
  rcases whenPassed_eq_next e with rfl | run
  · exact advance_settled s
  · exact h t run

theorem keepsMemory_unlessRefused {r : Option Refusal} {k : Result} (h : KeepsMemory s k) :
    KeepsMemory s (unlessRefused r k) := fun t e => h t (unlessRefused_eq_next e)

theorem keepsMemory_enterUndefined : KeepsMemory s (.next s.enterUndefined) :=
  keepsMemory_next (enterUndefined_settled s)

theorem keepsMemory_whenPrivileged {k : Result} (h : KeepsMemory s k) : KeepsMemory s (s.whenPrivileged k) := by
  unfold State.whenPrivileged
  split
  · exact h
  · exact keepsMemory_enterUndefined

theorem keepsMemory_unlessCp15 {cp : BitVec 4} {k : Result} (h : KeepsMemory s k) :
    KeepsMemory s (if cp = 15#4 then .next s.enterUndefined else k) := by
  split
  · exact keepsMemory_enterUndefined
  · exact h

/-! ### Data processing, status registers and multiply -/

theorem keepsMemory_restoreCpsr : KeepsMemory s s.restoreCpsr := by
  unfold State.restoreCpsr
  split
  · exact keepsMemory_refused _
  · split
    · exact keepsMemory_refused _
    · exact keepsMemory_next rfl

theorem keepsMemory_returnTo (v : Word) : KeepsMemory s (s.returnTo v) :=
  (keepsMemory_restoreCpsr (s := s.branchTo v)).of_settled rfl

theorem keepsMemory_dpWrite (sBit : Bool) (rd : RegNum) (v : Word) (flags : Cpsr) :
    KeepsMemory s (s.dpWrite sBit rd v flags) := by
  unfold State.dpWrite
  split
  · split
    · exact keepsMemory_returnTo v
    · exact keepsMemory_next rfl
  · exact keepsMemory_next rfl

theorem keepsMemory_dpTest (rd : RegNum) (flags : Cpsr) : KeepsMemory s (s.dpTest rd flags) := by
  unfold State.dpTest
  split
  · split
    · exact (keepsMemory_restoreCpsr (s := s.advance)).of_settled (advance_settled s)
    · exact keepsMemory_next (advance_settled s)
  · exact keepsMemory_next rfl

theorem keepsMemory_writeProduct (sBit : Bool) (rd : RegNum) (v : Word) (flags : Cpsr) :
    KeepsMemory s (s.writeProduct sBit rd v flags) := keepsMemory_next rfl

theorem setSpsr_settled (s : State) (m : Mode) (p : Psr) : (s.setSpsr m p).settledMem = s.settledMem := by
  simp [State.settledMem]

theorem keepsMemory_writeSpsr (p : Psr → Psr) : KeepsMemory s (s.writeSpsr p) := by
  unfold State.writeSpsr
  split
  · exact keepsMemory_refused _
  · exact keepsMemory_next ((advance_settled _).trans (setSpsr_settled s _ _))

theorem keepsMemory_writePsrFlags (spsr : Bool) (w : Word) : KeepsMemory s (s.writePsrFlags spsr w) := by
  unfold State.writePsrFlags
  split
  · exact keepsMemory_writeSpsr _
  · exact keepsMemory_next rfl

theorem keepsMemory_execMrs (a : MrsArgs) : KeepsMemory s (execMrs a s) := by
  refine keepsMemory_whenPassed (keepsMemory_unlessRefused ?_)
  split
  · exact keepsMemory_refused _
  · exact keepsMemory_next rfl

theorem keepsMemory_execMsr (a : MsrRegArgs) : KeepsMemory s (execMsr a s) := by
  refine keepsMemory_whenPassed (keepsMemory_unlessRefused ?_)
  dsimp only
  split
  · exact keepsMemory_writeSpsr _
  · split
    · split
      · exact keepsMemory_refused _
      · exact keepsMemory_next rfl
    · exact keepsMemory_next rfl

theorem keepsMemory_execMla (a : MulArgs) : KeepsMemory s (execMla a s) := by
  refine keepsMemory_whenPassed (keepsMemory_unlessRefused ?_)
  split
  · exact keepsMemory_writeProduct _ _ _ _
  · exact keepsMemory_writeProduct _ _ _ _

/-! ### Loads -/

theorem writeRd_settled (s : State) (rd : RegNum) (v : Word) : (s.writeRd rd v).settledMem = s.settledMem := by
  unfold State.writeRd
  split <;> rfl

theorem mrcWrite_settled (s : State) (rd : RegNum) (w : Word) : (s.mrcWrite rd w).settledMem = s.settledMem := by
  unfold State.mrcWrite
  split <;> rfl

theorem startHazard_settled (s : State) (user : Bool) : (s.startHazard user).settledMem = s.settledMem := by
  simp [State.settledMem]

theorem sendWord_settled (s : State) (w : Word) : (s.sendWord w).settledMem = s.settledMem := by
  simp [State.settledMem]

theorem sendWord_calm (c : s.calm) (w : Word) : (s.sendWord w).calm := by
  unfold State.calm
  rw [State.sendWord_busTape]
  exact c

theorem loaded_settled (c : s.calm) (kept : ReadKept s u) (rn rd : RegNum) (t : TransferAddr) (v : Word) :
    ((u.writeBack rn t).writeRd rd v).settledMem = s.settledMem :=
  (writeRd_settled _ rd v).trans ((writeBack_settled u rn t).trans (kept.settled c))

theorem abortedLoad_settled (c : s.calm) (kept : ReadKept s u) (rn : RegNum) (t : TransferAddr) (f : MemFault)
    (va : Word) : ((u.abortedBase rn t).dataAbort f va).settledMem = s.settledMem :=
  (dataAbort_settled _ f va).trans ((abortedBase_settled u rn t).trans (kept.settled c))

/-- A calm access that ends its instruction does so by a refusal. -/
theorem Access.Obeys.halted {α : Type} {x : Access α} {r : Result} (h : x.Obeys ReadKept s) (c : s.calm)
    (e : x = .halt r) (t : State) : r ≠ .next t := fun next => h.not_reset c (next ▸ e)

theorem keepsMemory_halted {r : Result} (h : ∀ t, r ≠ .next t) : KeepsMemory s r := fun t next => absurd next (h t)

theorem keepsMemory_loadWord (c : s.calm) (rn rd : RegNum) (t : TransferAddr) :
    KeepsMemory s (s.loadWord rn rd t) := by
  have access := readWord_obeys s t.addr .data
  unfold State.loadWord
  split
  case h_1 e => exact keepsMemory_next (loaded_settled c (access.done e) rn rd t _)
  case h_2 e => exact keepsMemory_next (abortedLoad_settled c (access.abort e) rn t _ _)
  case h_3 e => exact keepsMemory_halted (access.halted c e)

theorem keepsMemory_loadByte (c : s.calm) (rn rd : RegNum) (t : TransferAddr) :
    KeepsMemory s (s.loadByte rn rd t) := by
  have access := readByte_obeys s t.addr .data
  unfold State.loadByte
  split
  case h_1 e => exact keepsMemory_next (loaded_settled c (access.done e) rn rd t _)
  case h_2 e => exact keepsMemory_next (abortedLoad_settled c (access.abort e) rn t _ _)
  case h_3 e => exact keepsMemory_halted (access.halted c e)

/-! ### Runs of loads -/

theorem BlockOut.Leaves.imp {x : BlockOut} {P Q : State → Prop} (h : x.Leaves P) (k : ∀ t, P t → Q t) :
    x.Leaves Q := by
  cases x with
  | done w f t => exact k t h
  | halt r => exact h

theorem BlockOut.Leaves.done {x : BlockOut} {P : State → Prop} {w : Word} {f : Option (MemFault × Word)} {t : State}
    (h : x.Leaves P) (e : x = .done w f t) : P t := by subst e; exact h

theorem BlockOut.Leaves.halted {x : BlockOut} {P : State → Prop} {r : Result} (h : x.Leaves P) (e : x = .halt r) :
    ∀ t, r ≠ .next t := by subst e; exact h

theorem CoprocOut.Leaves.imp {x : CoprocOut} {P Q : State → Prop} (h : x.Leaves P) (k : ∀ t, P t → Q t) :
    x.Leaves Q := by
  cases x with
  | done f t => exact k t h
  | halt r => exact h

theorem CoprocOut.Leaves.done {x : CoprocOut} {P : State → Prop} {f : Option (MemFault × Word)} {t : State}
    (h : x.Leaves P) (e : x = .done f t) : P t := by subst e; exact h

theorem CoprocOut.Leaves.halted {x : CoprocOut} {P : State → Prop} {r : Result} (h : x.Leaves P) (e : x = .halt r) :
    ∀ t, r ≠ .next t := by subst e; exact h

/-- The run of an LDM leaves memory alone, whatever aborts on the way (R415, R425). -/
theorem ldmTransfers_settled (user : Bool) (list : List RegNum) (addr newPc : Word) (first : Option (MemFault × Word))
    {s : State} (c : s.calm) :
    (ldmTransfers user list addr newPc first s).Leaves fun t => t.settledMem = s.settledMem := by
  induction list generalizing addr newPc first s with
  | nil => exact rfl
  | cons r rest ih =>
    have access := readWord_obeys s addr .data
    have next (newPc : Word) (first : Option (MemFault × Word)) {u v : State} (kept : ReadKept s u)
        (tape : v.busTape = u.busTape) (same : v.settledMem = u.settledMem) :
        (ldmTransfers user rest (addr + 4#32) newPc first v).Leaves fun t => t.settledMem = s.settledMem :=
      (ih _ newPc first (s := v) (by unfold State.calm; rw [tape]; exact kept.calm c)).imp fun t settled =>
        settled.trans (same.trans (kept.settled c))
    unfold ldmTransfers
    split
    case h_1 w u e =>
      have kept := access.done e
      split
      · exact next _ _ kept rfl rfl
      · split
        · exact next _ _ kept rfl rfl
        · exact next _ _ kept rfl rfl
    case h_2 f u e => exact next _ _ (access.abort e) rfl rfl
    case h_3 o e => exact access.halted c e

/-- The run of an LDC leaves memory alone (R466). -/
theorem ldcTransfers_settled (n : Nat) (addr : Word) {s : State} (c : s.calm) :
    (ldcTransfers n addr s).Leaves fun t => t.settledMem = s.settledMem ∧ t.calm := by
  induction n generalizing addr s with
  | zero => exact ⟨rfl, c⟩
  | succ n ih =>
    have access := readWord_obeys s addr .data
    unfold ldcTransfers
    split
    case h_1 w u e =>
      have kept := access.done e
      exact (ih _ (sendWord_calm (kept.calm c) w)).imp fun t run =>
        ⟨run.1.trans ((sendWord_settled u w).trans (kept.settled c)), run.2⟩
    case h_2 f u e => exact ⟨(access.abort e).settled c, (access.abort e).calm c⟩
    case h_3 o e => exact access.halted c e

theorem ldcExtraRead_settled {s : State} (c : s.calm) (addr : Word) :
    (s.ldcExtraRead addr).Leaves fun t => t.settledMem = s.settledMem := by
  have access := readWord_obeys s addr .data
  unfold State.ldcExtraRead
  split
  case h_1 w u e => exact (access.done e).settled c
  case h_2 f u e => exact (access.abort e).settled c
  case h_3 o e => exact access.halted c e

theorem keepsMemory_execLdm (c : s.calm) (a : Bdt) : KeepsMemory s (execLdm a s) := by
  refine keepsMemory_whenPassed (keepsMemory_unlessRefused ?_)
  have start : State.calm (if a.w then s.setReg a.rn (s.bdtSpan a).2 else s) := by split <;> exact c
  have same : State.settledMem (if a.w then s.setReg a.rn (s.bdtSpan a).2 else s) = s.settledMem := by split <;> rfl
  have run := ldmTransfers_settled (bdtUserBank a true) (regList a.list) (s.bdtSpan a).1 0#32 none start
  rw [same] at run
  dsimp only
  split
  case h_1 e => exact keepsMemory_halted (run.halted e)
  case h_2 f va u e =>
    have loaded : u.settledMem = s.settledMem := run.done e
    exact keepsMemory_next ((dataAbort_settled _ f va).trans ((startHazard_settled _ _).trans loaded))
  case h_3 newPc u e =>
    have loaded : u.settledMem = s.settledMem := run.done e
    split
    · split
      · exact (keepsMemory_returnTo newPc).of_settled loaded
      · exact keepsMemory_next loaded
    · exact keepsMemory_next ((advance_settled _).trans ((startHazard_settled u _).trans loaded))

/-! ### Coprocessors -/

theorem keepsMemory_handshake {w : Word} {accepted : Nat → List Word → State → Result}
    (h : ∀ n data, KeepsMemory s (accepted n data s.popAnswer)) : KeepsMemory s (s.handshake w accepted) := by
  intro t e
  rcases handshake_eq_next e with same | ⟨n, data, -, -, run⟩
  · exact same
  · exact h n data t run

theorem keepsMemory_endCdt (rn : RegNum) (tr : TransferAddr) (abort : Option (MemFault × Word)) :
    KeepsMemory s (s.endCdt rn tr abort) := fun _ => endCdt_settled

theorem keepsMemory_loadCoproc (c : s.calm) (a : Cdt) : KeepsMemory s (s.loadCoproc a) := by
  refine keepsMemory_handshake fun count _ => ?_
  have run (n : Nat) (addr : Word) :=
    ldcTransfers_settled n addr (s := s.popAnswer.sendCoproc (encode (.ldc a)) []) c
  dsimp only
  split
  case h_1 r e => exact keepsMemory_halted ((run _ _).halted e)
  case h_2 abort u e =>
    obtain ⟨settled, -⟩ := (run _ _).done e
    exact (keepsMemory_endCdt _ _ _).of_settled settled
  case h_3 u e =>
    obtain ⟨settled, calm⟩ := (run _ _).done e
    have extra (addr : Word) := ldcExtraRead_settled calm addr
    split
    case h_1 r e' => exact keepsMemory_halted ((extra _).halted e')
    case h_2 e' => exact (keepsMemory_endCdt _ _ _).of_settled (((extra _).done e').trans settled)

theorem keepsMemory_execMrc (a : Crt) : KeepsMemory s (execMrc a s) := by
  refine keepsMemory_whenPassed ?_
  split
  · split
    · exact keepsMemory_next (mrcWrite_settled s _ _)
    · exact keepsMemory_enterUndefined
  · exact keepsMemory_handshake fun _ _ => keepsMemory_next (mrcWrite_settled _ _ _)

theorem keepsMemory_execMcr (a : Crt) : KeepsMemory s (execMcr a s) := by
  refine keepsMemory_whenPassed ?_
  split
  · split
    · exact keepsMemory_next (advance_settled s)
    · exact keepsMemory_enterUndefined
  · exact keepsMemory_handshake fun _ _ => keepsMemory_next rfl

/-! ### Every instruction that stores nothing -/

theorem enterSwi_settled (s : State) : s.enterSwi.settledMem = s.settledMem := by
  simp [State.settledMem, State.enterSwi]

/-- The instructions that store are left out by `instrStores`; each of the others only reads. -/
theorem keepsMemory_exec (c : s.calm) {i : Instr} (stores : instrStores i = false) : KeepsMemory s (exec i s) := by
  cases i with
  | andImm a | eorImm a | subImm a | rsbImm a | addImm a | adcImm a | sbcImm a | rscImm a | orrImm a | movImm a
  | bicImm a | mvnImm a => exact keepsMemory_whenPassed (keepsMemory_dpWrite _ _ _ _)
  | andShift a | eorShift a | subShift a | rsbShift a | addShift a | adcShift a | sbcShift a | rscShift a | orrShift a
  | movShift a | bicShift a | mvnShift a => exact keepsMemory_whenPassed (keepsMemory_dpWrite _ _ _ _)
  | andRegShift a | eorRegShift a | subRegShift a | rsbRegShift a | addRegShift a | adcRegShift a | sbcRegShift a
  | rscRegShift a | orrRegShift a | movRegShift a | bicRegShift a | mvnRegShift a =>
    exact keepsMemory_whenPassed (keepsMemory_unlessRefused (keepsMemory_dpWrite _ _ _ _))
  | tstImm a | teqImm a | cmpImm a | cmnImm a => exact keepsMemory_whenPassed (keepsMemory_dpTest _ _)
  | tstShift a | teqShift a | cmpShift a | cmnShift a => exact keepsMemory_whenPassed (keepsMemory_dpTest _ _)
  | tstRegShift a | teqRegShift a | cmpRegShift a | cmnRegShift a =>
    exact keepsMemory_whenPassed (keepsMemory_unlessRefused (keepsMemory_dpTest _ _))
  | mrs a => exact keepsMemory_execMrs a
  | msr a => exact keepsMemory_execMsr a
  | msrFlgReg a => exact keepsMemory_whenPassed (keepsMemory_unlessRefused (keepsMemory_writePsrFlags _ _))
  | msrFlgImm a => exact keepsMemory_whenPassed (keepsMemory_writePsrFlags _ _)
  | mul a => exact keepsMemory_whenPassed (keepsMemory_unlessRefused (keepsMemory_writeProduct _ _ _ _))
  | mla a => exact keepsMemory_execMla a
  | ldrImm a | ldrReg a => exact keepsMemory_whenPassed (keepsMemory_unlessRefused (keepsMemory_loadWord c _ _ _))
  | ldrbImm a | ldrbReg a => exact keepsMemory_whenPassed (keepsMemory_unlessRefused (keepsMemory_loadByte c _ _ _))
  | undefined a => exact keepsMemory_whenPassed keepsMemory_enterUndefined
  | ldm a => exact keepsMemory_execLdm c a
  | b a => exact keepsMemory_whenPassed (keepsMemory_next rfl)
  | bl a => exact keepsMemory_whenPassed (keepsMemory_next rfl)
  | ldc a =>
    exact keepsMemory_whenPassed (keepsMemory_unlessCp15 (keepsMemory_unlessRefused (keepsMemory_loadCoproc c a)))
  | cdp a =>
    exact keepsMemory_whenPassed (keepsMemory_unlessCp15 (keepsMemory_handshake fun _ _ => keepsMemory_next rfl))
  | mrc a => exact keepsMemory_execMrc a
  | mcr a => exact keepsMemory_execMcr a
  | swi a => exact keepsMemory_whenPassed (keepsMemory_next (enterSwi_settled s))
  | mrcId a | mrcFsr a | mrcFar a =>
    exact keepsMemory_whenPassed (keepsMemory_whenPrivileged (keepsMemory_next (mrcWrite_settled s _ _)))
  | mcrControl a =>
    exact keepsMemory_whenPassed (keepsMemory_whenPrivileged (keepsMemory_unlessRefused (keepsMemory_next rfl)))
  | mcrTtb a | mcrDacr a | mcrTlbFlush a | mcrTlbPurge a | mcrIdcFlush a =>
    exact keepsMemory_whenPassed (keepsMemory_whenPrivileged (keepsMemory_next rfl))
  | swp a | swpb a | strImm a | strbImm a | strReg a | strbReg a | stm a | stc a => cases stores

end

/-- Settles O25: the memory with the buffered writes performed is the same as a whole, so it is the same at each byte. -/
theorem nonStoringKeepMemory : Obligations.NonStoringKeepMemory := fun _ _ t stores calm next a => by
  rw [keepsMemory_exec calm stores t next]

end Sys2Proof.Machine
end

section
/-! The documented returns from an exception: what the entry saved, and the return that gives it back. -/

namespace Sys2Proof.Machine

/-! ### What the entry saved -/

theorem modeOfBits_modeBits (m : Mode) : modeOfBits (modeBits m) = some m := by cases m <;> rfl

section
variable {s : State} {m : Mode} {vector ret : Word} {setF : Bool}

/-- R14 of the mode that was entered reads as the return address, but right after a User-bank LDM (R590). -/
theorem readReg_link_enter (hazard : (s.enter m vector ret setF).hazard ≠ 1) (role : Role) (ahead : Word) :
    (s.enter m vector ret setF).readReg role 14#4 ahead = ret := by
  have mode : (s.enter m vector ret setF).cpsr.mode = m := by rw [State.enter_cpsr]
  rw [readReg_of_not_hazardous (by decide) (hazardous_eq_false (Or.inl hazard)), mode, State.regIn]
  simp

theorem spsrOf_enter (privileged : m ≠ .usr) :
    (s.enter m vector ret setF).spsrOf m = some (saveCpsr s.cpsr) := by
  cases m with
  | usr => exact absurd rfl privileged
  | fiq | irq | svc | abt | und => rfl

/-- A return from a mode that was entered gives back the CPSR and goes to the word address of the result (R319). -/
theorem returnOutcome_enter (privileged : m ≠ .usr) (v : Word) :
    ∃ t, (s.enter m vector ret setF).returnOutcome v = .next t ∧ t.cpsr = s.cpsr ∧ t.pc = wordAddr v := by
  have held : (s.enter m vector ret setF).spsrOf (s.enter m vector ret setF).cpsr.mode = some (saveCpsr s.cpsr) := by
    rw [State.enter_cpsr]
    exact spsrOf_enter privileged
  refine ⟨_, (returnTo_eq_returnOutcome _ v).symm.trans
    (restoreCpsr_mode (s := (s.enter m vector ret setF).branchTo v) held (modeOfBits_modeBits s.cpsr.mode)), rfl, rfl⟩

end

/-! ### The two return instructions -/

/-- `MOVS PC,R14` (R319). -/
theorem exec_movsPcLink (e : State) : exec (.movShift ⟨.al, true, 0#4, 15#4, 0#5, .lsl, 14#4⟩) e =
    e.returnOutcome (e.readReg .rm 14#4 8#32) :=
  (dataProcessingToPc.2 .mov e rfl).2.1 ⟨.al, true, 0#4, 15#4, 0#5, .lsl, 14#4⟩ rfl rfl rfl

theorem rotatedImm_zero (imm : Byte) : rotatedImm 0#4 imm = imm.setWidth 32 := rotateRight_zero _

/-- `SUBS PC,R14,#k` (R319). -/
theorem exec_subsPcLink (e : State) (k : Byte) : exec (.subImm ⟨.al, true, 14#4, 15#4, 0#4, k⟩) e =
    e.returnOutcome (e.readReg .rn 14#4 8#32 - k.setWidth 32) := by
  rw [← rotatedImm_zero]
  exact (dataProcessingToPc.2 .sub e rfl).1 ⟨.al, true, 14#4, 15#4, 0#4, k⟩ rfl rfl rfl

section
variable {s : State} {m : Mode} {vector ret : Word} {setF : Bool}

/-- `MOVS PC,R14` goes on at the saved address. -/
theorem movsReturn (privileged : m ≠ .usr) (aligned : laneBits ret = 0#2)
    (hazard : (s.enter m vector ret setF).hazard ≠ 1) :
    ∃ t, exec (.movShift ⟨.al, true, 0#4, 15#4, 0#5, .lsl, 14#4⟩) (s.enter m vector ret setF) = .next t
      ∧ t.cpsr = s.cpsr ∧ t.pc = ret := by
  have back := returnOutcome_enter (s := s) (vector := vector) (ret := ret) (setF := setF) privileged ret
  rw [wordAddr_of_aligned aligned] at back
  rw [exec_movsPcLink, readReg_link_enter hazard]
  exact back

/-- `SUBS PC,R14,#k` goes on `k` bytes before the saved address. -/
theorem subsReturn (privileged : m ≠ .usr) {k : Byte} {pc : Word} (saved : ret = pc + k.setWidth 32)
    (aligned : laneBits pc = 0#2) (hazard : (s.enter m vector ret setF).hazard ≠ 1) :
    ∃ t, exec (.subImm ⟨.al, true, 14#4, 15#4, 0#4, k⟩) (s.enter m vector ret setF) = .next t
      ∧ t.cpsr = s.cpsr ∧ t.pc = pc := by
  have back := returnOutcome_enter (s := s) (vector := vector) (ret := ret) (setF := setF) privileged pc
  have target : ret - k.setWidth 32 = pc := by rw [saved, BitVec.add_sub_cancel]
  rw [wordAddr_of_aligned aligned] at back
  rw [exec_subsPcLink, readReg_link_enter hazard, target]
  exact back

end

/-- Settles O42: SWI and the undefined trap save the address to go on at, the other exceptions 4 or 8 more. -/
theorem entryThenReturn : Obligations.EntryThenReturn := by
  intro s aligned
  have next : laneBits (s.pc + 4#32) = 0#2 := laneBits_add_four aligned
  exact ⟨movsReturn (by decide) next, movsReturn (by decide) next, subsReturn (by decide) rfl aligned,
    subsReturn (by decide) rfl aligned, subsReturn (by decide) rfl aligned,
    fun f va => subsReturn (s := s.recordFault f va) (by decide) rfl aligned⟩

end Sys2Proof.Machine
end

section
/-! MRS and MSR (R351 to R355): the round trip of a PSR through a word, and what a write to each PSR leaves. -/

namespace Sys2Proof.Machine

/-- The word that MRS gives holds the stored bits of the PSR where MSR reads them, whatever its reserved bits are (R53). -/
theorem psrOfWord_psrWord (p : Psr) (rest : Word) : psrOfWord (psrWord p rest) = p := by
  simp [psrOfWord, psrWord, field_or, wbit_or]

/-- MRS of a PSR that is there, to a register other than R15. -/
theorem exec_mrs_held {a : MrsArgs} {s : State} {p : Psr} (passed : condPassed a.cond s.cpsr = true) (rd : a.rd ≠ 15#4)
    (held : (if a.spsr then s.spsrOf s.cpsr.mode else some (saveCpsr s.cpsr)) = some p) :
    exec (.mrs a) s = .next (s.setReg a.rd (psrWord p (Config.free .reservedPsr s.draws))).advance := by
  refine (whenPassed_of_passed passed).trans ((unlessRefused_pcRefusal (beq_false_of_ne rd)).trans ?_)
  simp only [State.spsr, held]

/-- Settles O20: the word is the one that MSR would read the PSR back from. -/
theorem mrsReadsThePsr : Obligations.MrsReadsThePsr := by
  intro a s p passed rd held
  have back := psrOfWord_psrWord p (Config.free .reservedPsr s.draws)
  exact ⟨_, exec_mrs_held passed rd held, congrArg Psr.n back, congrArg Psr.z back, congrArg Psr.c back,
    congrArg Psr.v back, congrArg Psr.i back, congrArg Psr.f back, congrArg Psr.m back⟩

/-! ### Writes to a PSR -/

section
variable {s : State}

/-- The privileged modes have an SPSR (R44). -/
theorem exists_spsrOf {m : Mode} (privileged : m ≠ .usr) : ∃ p, s.spsrOf m = some p := by
  cases m with
  | usr => exact absurd rfl privileged
  | fiq | irq | svc | abt | und => exact ⟨_, rfl⟩

/-- A PSR whose mode bits are a mode (R51). -/
theorem restorePsr_of_mode {p : Psr} {m : Mode} (valid : modeOfBits p.m = some m) :
    restorePsr p = some ⟨p.n, p.z, p.c, p.v, p.i, p.f, m⟩ := by rw [restorePsr, valid]

/-- A PSR whose mode bits are no mode (R52). -/
theorem restorePsr_of_noMode {p : Psr} (invalid : modeOfBits p.m = none) : restorePsr p = none := by
  rw [restorePsr, invalid]

theorem privileged_of_ne_usr (h : s.cpsr.mode ≠ .usr) : s.privileged = true := by simpa [State.privileged] using h

theorem not_privileged_of_usr (user : s.cpsr.mode = .usr) : s.privileged = false := by simp [State.privileged, user]

theorem setSpsr_advance (m : Mode) (p : Psr) :
    (s.setSpsr m p).advance = { s.setSpsr m p with pc := s.pc + 4#32 } := by
  rw [State.advance, State.setSpsr_pc]

/-- A write to the SPSR of the current mode, computed from what it held (R352, R354). -/
theorem writeSpsr_held {old : Psr} (held : s.spsrOf s.cpsr.mode = some old) (p : Psr → Psr) :
    s.writeSpsr p = .next { s.setSpsr s.cpsr.mode (p old) with pc := s.pc + 4#32 } := by
  simp only [State.writeSpsr, State.spsr, held, setSpsr_advance]

/-- MSR to a whole PSR from a register other than R15 (R352, R353). -/
theorem exec_msr_passed {a : MsrRegArgs} (passed : condPassed a.cond s.cpsr = true) (rm : a.rm ≠ 15#4) :
    exec (.msr a) s =
      if a.spsr then s.writeSpsr fun _ => psrOfWord (s.readReg .rm a.rm 8#32)
      else if s.privileged then
        match restorePsr (psrOfWord (s.readReg .rm a.rm 8#32)) with
        | none => .refused .invalidMode
        | some c => .next { s with cpsr := c }.advance
      else .next { s with cpsr := s.cpsr.flagsOfWord (s.readReg .rm a.rm 8#32) }.advance :=
  (whenPassed_of_passed passed).trans ((unlessRefused_pcRefusal (beq_false_of_ne rm)).trans rfl)

end

/-- MSR to the flag bits, in both forms, where the condition passes (R354, R355). -/
theorem exec_msrFlg_passed {i : Instr} {spsr : Bool} {w : Word} {s : State}
    (form : (∃ a : MsrRegArgs, i = .msrFlgReg a ∧ a.spsr = spsr ∧ a.rm ≠ 15#4 ∧ w = s.readReg .rm a.rm 8#32
        ∧ condPassed a.cond s.cpsr = true)
      ∨ (∃ a : MsrImmArgs, i = .msrFlgImm a ∧ a.spsr = spsr ∧ w = rotatedImm a.rotate a.imm
        ∧ condPassed a.cond s.cpsr = true)) : exec i s = s.writePsrFlags spsr w := by
  obtain ⟨a, rfl, rfl, rm, rfl, passed⟩ | ⟨a, rfl, rfl, rfl, passed⟩ := form
  · exact (whenPassed_of_passed passed).trans (unlessRefused_pcRefusal (beq_false_of_ne rm))
  · exact whenPassed_of_passed passed

/-- Settles O21: the whole CPSR through `restorePsr`, its flags alone, or the SPSR of the current mode. -/
theorem msrWritesThePsr : Obligations.MsrWritesThePsr := by
  refine ⟨fun a s passed rm => ?_, fun i spsr w s form => ?_⟩
  · rw [exec_msr_passed passed rm]
    refine ⟨fun cpsr privileged m valid => ?_, fun cpsr privileged invalid => ?_, fun cpsr user => ?_,
      fun spsr privileged => ?_⟩
    · rw [cpsr, if_neg Bool.false_ne_true, if_pos (privileged_of_ne_usr privileged)]
      have restored := restorePsr_of_mode (p := psrOfWord (s.readReg .rm a.rm 8#32)) valid
      simp only [restored]
      rfl
    · rw [cpsr, if_neg Bool.false_ne_true, if_pos (privileged_of_ne_usr privileged)]
      have unrestored := restorePsr_of_noMode (p := psrOfWord (s.readReg .rm a.rm 8#32)) invalid
      simp only [unrestored]
    · rw [cpsr, not_privileged_of_usr user]
      rfl
    · obtain ⟨old, held⟩ := exists_spsrOf (s := s) privileged
      rw [spsr, if_pos rfl, writeSpsr_held held]
      rfl
  · rw [exec_msrFlg_passed form]
    refine ⟨fun cpsr => ?_, fun p spsr held => ?_⟩
    · rw [cpsr]
      rfl
    · rw [spsr, State.writePsrFlags, if_pos rfl, writeSpsr_held held]
      rfl

end Sys2Proof.Machine
end

section
/-! User mode: the privileged state that every end of an instruction leaves alone, unless a trap or a data abort takes it
to one of three vectors or a reset falls inside one of its accesses. -/

namespace Sys2Proof.Machine

/-! ### What an instruction in User mode may come to -/

/-- What User mode changes not even by an exception: the registers of coprocessor 15 that only MCR writes, F, and the
SPSRs of the two interrupts. -/
structure SystemKept (s t : State) : Prop where
  control : t.control = s.control
  ttb : t.ttb = s.ttb
  dacr : t.dacr = s.dacr
  fiqMask : t.cpsr.f = s.cpsr.f
  spsrFiq : t.spsrFiq = s.spsrFiq
  spsrIrq : t.spsrIrq = s.spsrIrq

/-- The machine is in User mode, all privileged state is that of `s`, and only answers of the bus were used up. -/
structure UserKept (s t : State) : Prop extends SystemKept s t where
  mode : t.cpsr.mode = .usr
  irqMask : t.cpsr.i = s.cpsr.i
  spsrSvc : t.spsrSvc = s.spsrSvc
  spsrAbt : t.spsrAbt = s.spsrAbt
  spsrUnd : t.spsrUnd = s.spsrUnd
  fsr : t.fsr = s.fsr
  far : t.far = s.far
  banked : ∀ k : Fin 30, 15 ≤ k.val → t.regs[k] = s.regs[k]
  tape : t.busTape <:+ s.busTape

/-- An exception took the machine out of User mode to one of its three vectors. -/
structure Trapped (s t : State) : Prop extends SystemKept s t where
  irqOff : t.cpsr.i = true
  vector : (t.pc = 0x04#32 ∧ t.cpsr.mode = .und) ∨ (t.pc = 0x08#32 ∧ t.cpsr.mode = .svc)
    ∨ (t.pc = 0x10#32 ∧ t.cpsr.mode = .abt)

/-- The outcome's next state, where it has one, is that of a reset which the bus brought, or in User mode with the
privileged state of `s`, or at a vector. -/
def Confines (s : State) (r : Result) : Prop :=
  ∀ t, r = .next t → ((∃ a ∈ s.busTape, a.reset = true) ∧ ResetForced t) ∨ UserKept s t ∨ Trapped s t

theorem UserKept.refl {s : State} (user : s.cpsr.mode = .usr) : UserKept s s where
  control := rfl
  ttb := rfl
  dacr := rfl
  fiqMask := rfl
  spsrFiq := rfl
  spsrIrq := rfl
  mode := user
  irqMask := rfl
  spsrSvc := rfl
  spsrAbt := rfl
  spsrUnd := rfl
  fsr := rfl
  far := rfl
  banked _ _ := rfl
  tape := List.suffix_rfl

section
variable {s u : State}

theorem UserKept.next (h : UserKept s u) : Confines s (.next u) := by
  rintro _ ⟨⟩
  exact Or.inr (Or.inl h)

theorem Trapped.next (h : Trapped s u) : Confines s (.next u) := by
  rintro _ ⟨⟩
  exact Or.inr (Or.inr h)

theorem confines_refused (r : Refusal) : Confines s (.refused r) := by
  intro t e
  cases e

/-! ### The updates of the state -/

theorem UserKept.not_privileged (h : UserKept s u) : u.privileged = false := not_privileged_of_usr h.mode

/-- A register of the User bank other than R15 lies below the banked ones (R33). -/
theorem setRegIn_usr_banked {r : RegNum} (hr : r ≠ 15#4) (v : Word) (k : Fin 30) (hk : 15 ≤ k.val) :
    (u.setRegIn .usr r v).regs[k] = u.regs[k] := by
  have below : (phys .usr r).val < 15 := (phys_val .usr hr).trans_lt (toNat_lt_of_ne_pc hr)
  have apart : (phys .usr r).val ≠ k.val := by omega
  exact Vector.getElem_set_ne (phys .usr r).isLt k.isLt apart

theorem UserKept.setRegIn (h : UserKept s u) {r : RegNum} (hr : r ≠ 15#4) (v : Word) :
    UserKept s (u.setRegIn .usr r v) :=
  { h with banked := fun k hk => (setRegIn_usr_banked hr v k hk).trans (h.banked k hk) }

theorem UserKept.setReg (h : UserKept s u) {r : RegNum} (hr : r ≠ 15#4) (v : Word) : UserKept s (u.setReg r v) := by
  rw [State.setReg, h.mode]
  exact h.setRegIn hr v

/-- The flags are User mode's own (R353). -/
theorem UserKept.setFlags (h : UserKept s u) (n z c v : Bool) :
    UserKept s { u with cpsr := u.cpsr.withFlags n z c v } := { h with }

theorem UserKept.advance (h : UserKept s u) : UserKept s u.advance := { h with }

theorem UserKept.branchTo (h : UserKept s u) (v : Word) : UserKept s (u.branchTo v) := { h with }

theorem UserKept.popAnswer (h : UserKept s u) : UserKept s u.popAnswer := { h with }

theorem UserKept.busyWait (h : UserKept s u) (w : Word) : UserKept s (u.busyWait w) := { h with }

theorem UserKept.sendCoproc (h : UserKept s u) (w : Word) (sent : List Word) : UserKept s (u.sendCoproc w sent) :=
  { h with }

theorem UserKept.sendWord (h : UserKept s u) (w : Word) : UserKept s (u.sendWord w) := by
  unfold State.sendWord
  split
  · exact h
  · exact { h with }

theorem UserKept.startHazard (h : UserKept s u) (user : Bool) : UserKept s (u.startHazard user) := by
  unfold State.startHazard
  split
  · exact { h with }
  · exact h

theorem UserKept.writeRd (h : UserKept s u) (rd : RegNum) (v : Word) : UserKept s (u.writeRd rd v) := by
  unfold State.writeRd
  split
  · exact h.branchTo v
  · next hr => exact (h.setReg hr v).advance

theorem UserKept.mrcWrite (h : UserKept s u) (rd : RegNum) (w : Word) : UserKept s (u.mrcWrite rd w) := by
  unfold State.mrcWrite
  split
  · exact (h.setFlags _ _ _ _).advance
  · next hr => exact (h.setReg hr w).advance

theorem UserKept.writeBack (h : UserKept s u) {rn : RegNum} {t : TransferAddr} (hn : t.wb = true → rn ≠ 15#4) :
    UserKept s (u.writeBack rn t) := by
  unfold State.writeBack
  split
  · next wb => exact h.setReg (hn wb) _
  · exact h

theorem UserKept.abortedBase (h : UserKept s u) {rn : RegNum} {t : TransferAddr} (hn : t.wb = true → rn ≠ 15#4) :
    UserKept s (u.abortedBase rn t) := by
  unfold State.abortedBase
  split
  · exact h.writeBack hn
  · exact h

theorem UserKept.blockWriteBack (h : UserKept s u) {wb : Option (RegNum × Word)} (hn : ∀ p ∈ wb, p.1 ≠ 15#4) :
    UserKept s (u.blockWriteBack wb) := by
  cases wb with
  | none => exact h
  | some p => exact h.setReg (hn p rfl) p.2

/-! ### The three exceptions -/

/-- An entry that leaves F alone saves the CPSR in the SPSR of its own mode, which is none of the interrupts' (R511). -/
theorem SystemKept.enter (h : SystemKept s u) {m : Mode} {vector : Word} (ret : Word)
    (own : (vector = 0x04#32 ∧ m = .und) ∨ (vector = 0x08#32 ∧ m = .svc) ∨ (vector = 0x10#32 ∧ m = .abt)) :
    Trapped s (u.enter m vector ret false) where
  control := by rw [State.enter_control, h.control]
  ttb := by rw [State.enter_ttb, h.ttb]
  dacr := by rw [State.enter_dacr, h.dacr]
  fiqMask := by rw [State.enter_cpsr, ← h.fiqMask, Bool.or_false]
  spsrFiq := by obtain ⟨-, rfl⟩ | ⟨-, rfl⟩ | ⟨-, rfl⟩ := own <;> exact h.spsrFiq
  spsrIrq := by obtain ⟨-, rfl⟩ | ⟨-, rfl⟩ | ⟨-, rfl⟩ := own <;> exact h.spsrIrq
  irqOff := by rw [State.enter_cpsr]
  vector := by rw [State.enter_pc, State.enter_cpsr]; exact own

theorem UserKept.enterUndefined (h : UserKept s u) : Trapped s u.enterUndefined :=
  h.toSystemKept.enter _ (Or.inl ⟨rfl, rfl⟩)

theorem UserKept.enterSwi (h : UserKept s u) : Trapped s u.enterSwi :=
  h.toSystemKept.enter _ (Or.inr (Or.inl ⟨rfl, rfl⟩))

theorem SystemKept.recordFault (h : SystemKept s u) (f : MemFault) (va : Word) : SystemKept s (u.recordFault f va) :=
  { h with }

theorem UserKept.dataAbort (h : UserKept s u) (f : MemFault) (va : Word) : Trapped s (u.dataAbort f va) :=
  (h.toSystemKept.recordFault f va).enter _ (Or.inr (Or.inr ⟨rfl, rfl⟩))

/-! ### Accesses -/

/-- A memory access touches no privileged state: its frame holds all of it. -/
theorem UserKept.kept {t : State} (h : UserKept s u) (k : Kept u t) : UserKept s t where
  control := k.frame.control.trans h.control
  ttb := k.frame.ttb.trans h.ttb
  dacr := k.frame.dacr.trans h.dacr
  fiqMask := k.frame.cpsr ▸ h.fiqMask
  spsrFiq := k.frame.spsrFiq.trans h.spsrFiq
  spsrIrq := k.frame.spsrIrq.trans h.spsrIrq
  mode := k.frame.cpsr ▸ h.mode
  irqMask := k.frame.cpsr ▸ h.irqMask
  spsrSvc := k.frame.spsrSvc.trans h.spsrSvc
  spsrAbt := k.frame.spsrAbt.trans h.spsrAbt
  spsrUnd := k.frame.spsrUnd.trans h.spsrUnd
  fsr := k.frame.fsr.trans h.fsr
  far := k.frame.far.trans h.far
  banked := k.frame.regs ▸ h.banked
  tape := k.tape.trans h.tape

/-- The access ends, done or aborted, in User mode with the privileged state of `s`, or as an instruction that `s`
confines. -/
def Access.Confined {α : Type} (s : State) : Access α → Prop
  | .done _ t => UserKept s t
  | .abort _ t => UserKept s t
  | .halt r => Confines s r

theorem Access.Confined.done {α : Type} {x : Access α} {a : α} {t : State} (h : x.Confined s) (e : x = .done a t) :
    UserKept s t := by subst e; exact h

theorem Access.Confined.abort {α : Type} {x : Access α} {f : MemFault} {t : State} (h : x.Confined s)
    (e : x = .abort f t) : UserKept s t := by subst e; exact h

theorem Access.Confined.halt {α : Type} {x : Access α} {r : Result} (h : x.Confined s) (e : x = .halt r) :
    Confines s r := by subst e; exact h

/-- An access that ends its instruction does so by a reset that an answer of the bus brings (R571), or by a refusal. -/
theorem UserKept.access {α : Type} {x : Access α} (h : UserKept s u) (o : x.Obeys Kept u) : x.Confined s := by
  match x, o with
  | .done _ t, k => exact h.kept k
  | .abort _ t, k => exact h.kept k
  | .halt (.next t), ⟨⟨a, answers, reset⟩, v, _, e⟩ =>
    rintro _ ⟨⟩
    exact Or.inl ⟨⟨a, h.tape.subset answers, reset⟩, e ▸ warmReset_forced v⟩
  | .halt (.refused r), _ => exact confines_refused r

theorem UserKept.readWord (h : UserKept s u) (va : Word) (kind : ReadKind) : (u.readWord va kind).Confined s :=
  h.access ((readWord_obeys u va kind).imp fun _ k => k.toKept)

theorem UserKept.readByte (h : UserKept s u) (va : Word) (kind : ReadKind) : (u.readByte va kind).Confined s :=
  h.access ((readByte_obeys u va kind).imp fun _ k => k.toKept)

theorem UserKept.memWrite (h : UserKept s u) (va : Word) (w : BusWrite) (swap seq : Bool) :
    (u.memWrite va w swap seq).Confined s :=
  h.access (memWrite_obeys u va w swap seq)

/-! ### The wrappers of an instruction and its restrictions -/

theorem UserKept.whenPassed (h : UserKept s u) {c : Cond} {k : Result} (hk : Confines s k) :
    Confines s (whenPassed c u k) := by
  unfold Machine.whenPassed
  split
  · exact hk
  · exact h.advance.next

theorem confines_unlessRefused {r : Option Refusal} {k : Result} (hk : r = none → Confines s k) :
    Confines s (unlessRefused r k) := by
  cases r with
  | none => exact hk rfl
  | some r => exact confines_refused r

/-- In User mode a transfer with coprocessor 15 is the undefined instruction trap (R484). -/
theorem UserKept.whenPrivileged (h : UserKept s u) (k : Result) : Confines s (u.whenPrivileged k) := by
  rw [State.whenPrivileged, h.not_privileged]
  exact h.enterUndefined.next

theorem UserKept.unlessCp15 (h : UserKept s u) {cp : BitVec 4} {k : Result} (hk : Confines s k) :
    Confines s (if cp = 15#4 then .next u.enterUndefined else k) := by
  split
  · exact h.enterUndefined.next
  · exact hk

theorem named_of_pcRefusal {named : Bool} (h : pcRefusal named = none) : named = false := by
  cases named with
  | false => rfl
  | true => cases h

/-- The base of a single transfer that is written back is not R15 (R389). -/
theorem base_of_sdtRefusal {p w : Bool} {rn : RegNum} (h : sdtRefusal p w rn = none) (wb : (!p || w) = true) :
    rn ≠ 15#4 := by
  rintro rfl
  simp [sdtRefusal, wb] at h

theorem base_of_sdtRegRefusal {p w : Bool} {rn rm : RegNum} (h : sdtRegRefusal p w rn rm = none)
    (wb : (!p || w) = true) : rn ≠ 15#4 := by
  rintro rfl
  by_cases hm : rm = 15#4 <;> simp [sdtRegRefusal, wb, hm] at h

/-- The base of a block transfer is not R15 (R417). -/
theorem base_of_bdtRefusal {a : Bdt} {load privileged : Bool} (h : bdtRefusal a load privileged = none) :
    a.rn ≠ 15#4 := by
  intro rn
  simp [bdtRefusal, rn] at h

/-- The base of a coprocessor transfer that is written back is not R15 (R465). -/
theorem base_of_cdtRefusal {a : Cdt} (h : cdtRefusal a = none) (wb : a.w = true) : a.rn ≠ 15#4 := by
  intro rn
  simp [cdtRefusal, rn, wb] at h

/-! ### Data processing, status registers and multiply -/

/-- User mode has no SPSR to return through (R319). -/
theorem UserKept.returnTo (h : UserKept s u) (v : Word) : Confines s (u.returnTo v) := by
  have absent : (u.branchTo v).spsrOf (u.branchTo v).cpsr.mode = none := by rw [(h.branchTo v).mode]; rfl
  rw [State.returnTo, restoreCpsr_user absent]
  exact confines_refused _

/-- `c'` is `c` but for the flags. -/
def FlagsOnly (c c' : Cpsr) : Prop := ∃ n z carry v, c' = c.withFlags n z carry v

/-- With S set the flags of a result are all that changes in the CPSR, with S clear nothing does (R303). -/
theorem UserKept.setCpsr (h : UserKept s u) {c : Cpsr} (flags : FlagsOnly u.cpsr c) (sBit : Bool) :
    UserKept s { u with cpsr := if sBit then c else u.cpsr } := by
  obtain ⟨n, z, carry, v, rfl⟩ := flags
  cases sBit with
  | false => exact h
  | true => exact h.setFlags n z carry v

theorem UserKept.writeResult (h : UserKept s u) {rd : RegNum} (hr : rd ≠ 15#4) (v : Word) {c : Cpsr}
    (flags : FlagsOnly u.cpsr c) (sBit : Bool) :
    UserKept s { u.setReg rd v with cpsr := if sBit then c else u.cpsr }.advance :=
  ((h.setReg hr v).setCpsr flags sBit).advance

theorem UserKept.dpWrite (h : UserKept s u) (sBit : Bool) (rd : RegNum) (v : Word) {c : Cpsr}
    (flags : FlagsOnly u.cpsr c) : Confines s (u.dpWrite sBit rd v c) := by
  unfold State.dpWrite
  split
  · split
    · exact h.returnTo v
    · exact (h.branchTo v).next
  · next hr => exact (h.writeResult hr v flags sBit).next

/-- A test with Rd = R15 does nothing in User mode (R336). -/
theorem UserKept.dpTest (h : UserKept s u) (rd : RegNum) {c : Cpsr} (flags : FlagsOnly u.cpsr c) :
    Confines s (u.dpTest rd c) := by
  unfold State.dpTest
  split
  · rw [h.not_privileged]
    exact h.advance.next
  · exact (h.setCpsr flags true).advance.next

theorem UserKept.writeSpsr (h : UserKept s u) (p : Psr → Psr) : Confines s (u.writeSpsr p) := by
  rw [writeSpsr_user h.mode]
  exact confines_refused _

theorem UserKept.writePsrFlags (h : UserKept s u) (spsr : Bool) (w : Word) : Confines s (u.writePsrFlags spsr w) := by
  unfold State.writePsrFlags
  split
  · exact h.writeSpsr _
  · exact (h.setFlags _ _ _ _).advance.next

theorem UserKept.execMrs (h : UserKept s u) (a : MrsArgs) : Confines s (execMrs a u) := by
  refine h.whenPassed (confines_unlessRefused fun allowed => ?_)
  have rd : a.rd ≠ 15#4 := by simpa using named_of_pcRefusal allowed
  split
  · exact confines_refused _
  · exact (h.setReg rd _).advance.next

/-- In User mode MSR writes the flags of the CPSR alone (R353). -/
theorem UserKept.execMsr (h : UserKept s u) (a : MsrRegArgs) : Confines s (execMsr a u) := by
  refine h.whenPassed (confines_unlessRefused fun _ => ?_)
  dsimp only
  split
  · exact h.writeSpsr _
  · rw [h.not_privileged]
    exact (h.setFlags _ _ _ _).advance.next

theorem UserKept.execMul (h : UserKept s u) (a : MulArgs) : Confines s (execMul a u) := by
  refine h.whenPassed (confines_unlessRefused fun allowed => ?_)
  obtain ⟨⟨rd, -⟩, -⟩ : (a.rd ≠ 15#4 ∧ a.rm ≠ 15#4) ∧ a.rs ≠ 15#4 := by simpa using named_of_pcRefusal allowed
  exact (h.writeResult rd _ ⟨_, _, _, _, rfl⟩ a.s).next

theorem UserKept.execMla (h : UserKept s u) (a : MulArgs) : Confines s (execMla a u) := by
  refine h.whenPassed (confines_unlessRefused fun allowed => ?_)
  obtain ⟨⟨⟨rd, -⟩, -⟩, -⟩ : ((a.rd ≠ 15#4 ∧ a.rm ≠ 15#4) ∧ a.rs ≠ 15#4) ∧ a.rn ≠ 15#4 := by
    simpa using named_of_pcRefusal allowed
  split
  · exact (h.writeResult rd _ ⟨_, _, _, _, rfl⟩ a.s).next
  · exact (h.writeResult rd _ ⟨_, _, _, _, rfl⟩ a.s).next

/-! ### Single data transfer and swap -/

section
variable {rn : RegNum} {t : TransferAddr}

theorem UserKept.loadWord (h : UserKept s u) (rd : RegNum) (hn : t.wb = true → rn ≠ 15#4) :
    Confines s (u.loadWord rn rd t) := by
  have access := h.readWord t.addr .data
  unfold State.loadWord
  split
  case h_1 e => exact (((access.done e).writeBack hn).writeRd rd _).next
  case h_2 e => exact (((access.abort e).abortedBase hn).dataAbort _ _).next
  case h_3 e => exact access.halt e

theorem UserKept.loadByte (h : UserKept s u) (rd : RegNum) (hn : t.wb = true → rn ≠ 15#4) :
    Confines s (u.loadByte rn rd t) := by
  have access := h.readByte t.addr .data
  unfold State.loadByte
  split
  case h_1 e => exact (((access.done e).writeBack hn).writeRd rd _).next
  case h_2 e => exact (((access.abort e).abortedBase hn).dataAbort _ _).next
  case h_3 e => exact access.halt e

theorem UserKept.storeBus (h : UserKept s u) (w : BusWrite) (hn : t.wb = true → rn ≠ 15#4) :
    Confines s (u.storeBus rn t w) := by
  have access := h.memWrite t.addr w false false
  unfold State.storeBus
  split
  case h_1 e => exact ((access.done e).writeBack hn).advance.next
  case h_2 e => exact (((access.abort e).abortedBase hn).dataAbort _ _).next
  case h_3 e => exact access.halt e

end

theorem UserKept.swapWrite (h : UserKept s u) {rd : RegNum} (hr : rd ≠ 15#4) (addr : Word) (w : BusWrite)
    (loaded : Word) : Confines s (u.swapWrite rd addr w loaded) := by
  have access := h.memWrite addr w true false
  unfold State.swapWrite
  split
  case h_1 e => exact ((access.done e).setReg hr loaded).advance.next
  case h_2 e => exact ((access.abort e).dataAbort _ _).next
  case h_3 e => exact access.halt e

/-- The destination of a swap is not R15 (R445). -/
theorem rd_of_swapRefusal {a : SwpArgs} (h : pcRefusal (a.rd == 15#4 || a.rm == 15#4 || a.rn == 15#4) = none) :
    a.rd ≠ 15#4 := by
  obtain ⟨⟨rd, -⟩, -⟩ : (a.rd ≠ 15#4 ∧ a.rm ≠ 15#4) ∧ a.rn ≠ 15#4 := by simpa using named_of_pcRefusal h
  exact rd

theorem UserKept.execSwp (h : UserKept s u) (a : SwpArgs) : Confines s (execSwp a u) := by
  refine h.whenPassed (confines_unlessRefused fun allowed => ?_)
  have access := h.readWord (u.readReg .base a.rn 8#32) .swap
  dsimp only
  split
  case h_1 e => exact (access.done e).swapWrite (rd_of_swapRefusal allowed) _ _ _
  case h_2 e => exact ((access.abort e).dataAbort _ _).next
  case h_3 e => exact access.halt e

theorem UserKept.execSwpb (h : UserKept s u) (a : SwpArgs) : Confines s (execSwpb a u) := by
  refine h.whenPassed (confines_unlessRefused fun allowed => ?_)
  have access := h.readByte (u.readReg .base a.rn 8#32) .swap
  dsimp only
  split
  case h_1 e => exact (access.done e).swapWrite (rd_of_swapRefusal allowed) _ _ _
  case h_2 e => exact ((access.abort e).dataAbort _ _).next
  case h_3 e => exact access.halt e

/-! ### Block data transfer -/

/-- The run of transfers ends in User mode with the privileged state of `s`, or as an instruction that `s` confines. -/
def BlockOut.Confined (s : State) : BlockOut → Prop
  | .done _ _ t => UserKept s t
  | .halt r => Confines s r

theorem BlockOut.Confined.done {x : BlockOut} {w : Word} {f : Option (MemFault × Word)} {t : State}
    (h : x.Confined s) (e : x = .done w f t) : UserKept s t := by subst e; exact h

theorem BlockOut.Confined.halt {x : BlockOut} {r : Result} (h : x.Confined s) (e : x = .halt r) : Confines s r := by
  subst e; exact h

/-- In User mode the current bank is the User bank, whichever of the two an LDM names. -/
theorem ldmTransfers_confined (user : Bool) (list : List RegNum) (addr newPc : Word) (first : Option (MemFault × Word))
    (h : UserKept s u) : (ldmTransfers user list addr newPc first u).Confined s := by
  induction list generalizing addr newPc first u with
  | nil => exact h
  | cons r rest ih =>
    have access := h.readWord addr .data
    unfold ldmTransfers
    split
    case h_1 e =>
      have loaded := access.done e
      split
      · exact ih _ _ _ loaded
      · split
        · exact ih _ _ _ loaded
        · next hr =>
          rw [loaded.mode, ite_self]
          exact ih _ _ _ (loaded.setRegIn hr _)
    case h_2 e => exact ih _ _ _ (access.abort e)
    case h_3 e => exact access.halt e

theorem stmTransfers_confined (user : Bool) {wb : Option (RegNum × Word)} (hn : ∀ p ∈ wb, p.1 ≠ 15#4)
    (list : List RegNum) (addr : Word) (seq : Bool) (first : Option (MemFault × Word)) (h : UserKept s u) :
    (stmTransfers user wb list addr seq first u).Confined s := by
  induction list generalizing wb addr seq first u with
  | nil => exact h
  | cons r rest ih =>
    have access (w : BusWrite) := h.memWrite addr w false seq
    have none_ne (p : RegNum × Word) (mem : p ∈ (none : Option (RegNum × Word))) : p.1 ≠ 15#4 := by cases mem
    unfold stmTransfers
    dsimp only
    split
    case h_1 e => exact ih none_ne _ _ _ (((access _).done e).blockWriteBack hn)
    case h_2 e => exact ih none_ne _ _ _ (((access _).abort e).blockWriteBack hn)
    case h_3 e => exact (access _).halt e

theorem UserKept.execLdm (h : UserKept s u) (a : Bdt) : Confines s (execLdm a u) := by
  refine h.whenPassed (confines_unlessRefused fun allowed => ?_)
  have rn := base_of_bdtRefusal allowed
  have start : UserKept s (if a.w then u.setReg a.rn (u.bdtSpan a).2 else u) := by
    split
    · exact h.setReg rn _
    · exact h
  have run := ldmTransfers_confined (bdtUserBank a true) (regList a.list) (u.bdtSpan a).1 0#32 none start
  dsimp only
  split
  case h_1 e => exact run.halt e
  case h_2 e => exact ((((run.done e).setReg rn _).startHazard _).dataAbort _ _).next
  case h_3 e =>
    have loaded := run.done e
    split
    · split
      · exact loaded.returnTo _
      · exact (loaded.branchTo _).next
    · exact (loaded.startHazard _).advance.next

theorem UserKept.execStm (h : UserKept s u) (a : Bdt) : Confines s (execStm a u) := by
  refine h.whenPassed (confines_unlessRefused fun allowed => ?_)
  have rn (p : RegNum × Word) (mem : p ∈ if a.w then some (a.rn, (u.bdtSpan a).2) else none) : p.1 ≠ 15#4 := by
    split at mem
    · cases mem
      exact base_of_bdtRefusal allowed
    · cases mem
  have run := stmTransfers_confined (bdtUserBank a false) rn (regList a.list) (u.bdtSpan a).1 false none h
  dsimp only
  split
  case h_1 e => exact run.halt e
  case h_2 e => exact ((run.done e).dataAbort _ _).next
  case h_3 e => exact (run.done e).advance.next

/-! ### Coprocessors -/

/-- The transfers of an LDC or STC end in User mode with the privileged state of `s`, or as an instruction that `s`
confines. -/
def CoprocOut.Confined (s : State) : CoprocOut → Prop
  | .done _ t => UserKept s t
  | .halt r => Confines s r

theorem CoprocOut.Confined.done {x : CoprocOut} {f : Option (MemFault × Word)} {t : State} (h : x.Confined s)
    (e : x = .done f t) : UserKept s t := by subst e; exact h

theorem CoprocOut.Confined.halt {x : CoprocOut} {r : Result} (h : x.Confined s) (e : x = .halt r) : Confines s r := by
  subst e; exact h

theorem ldcTransfers_confined (n : Nat) (addr : Word) (h : UserKept s u) : (ldcTransfers n addr u).Confined s := by
  induction n generalizing addr u with
  | zero => exact h
  | succ n ih =>
    have access := h.readWord addr .data
    unfold ldcTransfers
    split
    case h_1 e => exact ih _ ((access.done e).sendWord _)
    case h_2 e => exact access.abort e
    case h_3 e => exact access.halt e

theorem stcTransfers_confined (supplied : Nat → Word) (n k : Nat) (addr : Word) (h : UserKept s u) :
    (stcTransfers supplied n k addr u).Confined s := by
  induction n generalizing k addr u with
  | zero => exact h
  | succ n ih =>
    have access := h.memWrite addr (.word (supplied k)) false (decide (0 < k))
    unfold stcTransfers
    split
    case h_1 e => exact ih _ _ (access.done e)
    case h_2 e => exact access.abort e
    case h_3 e => exact access.halt e

theorem UserKept.ldcExtraRead (h : UserKept s u) (addr : Word) : (u.ldcExtraRead addr).Confined s := by
  have access := h.readWord addr .data
  unfold State.ldcExtraRead
  split
  case h_1 e => exact access.done e
  case h_2 e => exact access.abort e
  case h_3 e => exact access.halt e

theorem UserKept.endCdt (h : UserKept s u) {rn : RegNum} {t : TransferAddr} (hn : t.wb = true → rn ≠ 15#4)
    (abort : Option (MemFault × Word)) : Confines s (u.endCdt rn t abort) := by
  cases abort with
  | none => exact (h.writeBack hn).advance.next
  | some f => exact ((h.writeBack hn).dataAbort f.1 f.2).next

theorem UserKept.handshake (h : UserKept s u) (w : Word) {accepted : Nat → List Word → State → Result}
    (ha : ∀ count data, Confines s (accepted count data u.popAnswer)) : Confines s (u.handshake w accepted) := by
  unfold State.handshake
  split
  · exact h.popAnswer.enterUndefined.next
  · exact (h.popAnswer.busyWait w).next
  · exact (h.busyWait w).next
  · exact ha _ _

theorem UserKept.loadCoproc (h : UserKept s u) {a : Cdt} (hn : a.w = true → a.rn ≠ 15#4) :
    Confines s (u.loadCoproc a) := by
  refine h.handshake _ fun count _ => ?_
  have run (n : Nat) (addr : Word) := ldcTransfers_confined n addr (h.popAnswer.sendCoproc (encode (.ldc a)) [])
  dsimp only
  split
  case h_1 e => exact (run _ _).halt e
  case h_2 e => exact ((run _ _).done e).endCdt hn _
  case h_3 e =>
    have extra (addr : Word) := ((run _ _).done e).ldcExtraRead addr
    split
    case h_1 e' => exact (extra _).halt e'
    case h_2 e' => exact ((extra _).done e').endCdt hn _

theorem UserKept.storeCoproc (h : UserKept s u) {a : Cdt} (hn : a.w = true → a.rn ≠ 15#4) :
    Confines s (u.storeCoproc a) := by
  refine h.handshake _ fun count data => ?_
  have run (supplied : Nat → Word) (n : Nat) (addr : Word) :=
    stcTransfers_confined supplied n 0 addr (h.popAnswer.sendCoproc (encode (.stc a)) [])
  dsimp only
  split
  case h_1 e => exact (run _ _ _).halt e
  case h_2 e => exact ((run _ _ _).done e).endCdt hn _

theorem UserKept.execMrc (h : UserKept s u) (a : Crt) : Confines s (execMrc a u) := by
  refine h.whenPassed ?_
  split
  · rw [h.not_privileged]
    exact h.enterUndefined.next
  · exact h.handshake _ fun _ _ => ((h.popAnswer.sendCoproc _ _).mrcWrite _ _).next

theorem UserKept.execMcr (h : UserKept s u) (a : Crt) : Confines s (execMcr a u) := by
  refine h.whenPassed ?_
  split
  · rw [h.not_privileged]
    exact h.enterUndefined.next
  · exact h.handshake _ fun _ _ => (h.popAnswer.sendCoproc _ _).advance.next

/-! ### Every instruction -/

/-- Every instruction in User mode is confined. -/
theorem UserKept.exec (h : UserKept s u) (i : Instr) : Confines s (exec i u) := by
  cases i with
  | andImm a | eorImm a | subImm a | rsbImm a | addImm a | adcImm a | sbcImm a | rscImm a | orrImm a | movImm a
  | bicImm a | mvnImm a => exact h.whenPassed (h.dpWrite _ _ _ ⟨_, _, _, _, rfl⟩)
  | andShift a | eorShift a | subShift a | rsbShift a | addShift a | adcShift a | sbcShift a | rscShift a | orrShift a
  | movShift a | bicShift a | mvnShift a => exact h.whenPassed (h.dpWrite _ _ _ ⟨_, _, _, _, rfl⟩)
  | andRegShift a | eorRegShift a | subRegShift a | rsbRegShift a | addRegShift a | adcRegShift a | sbcRegShift a
  | rscRegShift a | orrRegShift a | movRegShift a | bicRegShift a | mvnRegShift a =>
    exact h.whenPassed (confines_unlessRefused fun _ => h.dpWrite _ _ _ ⟨_, _, _, _, rfl⟩)
  | tstImm a | teqImm a | cmpImm a | cmnImm a => exact h.whenPassed (h.dpTest _ ⟨_, _, _, _, rfl⟩)
  | tstShift a | teqShift a | cmpShift a | cmnShift a => exact h.whenPassed (h.dpTest _ ⟨_, _, _, _, rfl⟩)
  | tstRegShift a | teqRegShift a | cmpRegShift a | cmnRegShift a =>
    exact h.whenPassed (confines_unlessRefused fun _ => h.dpTest _ ⟨_, _, _, _, rfl⟩)
  | mrs a => exact h.execMrs a
  | msr a => exact h.execMsr a
  | msrFlgReg a => exact h.whenPassed (confines_unlessRefused fun _ => h.writePsrFlags _ _)
  | msrFlgImm a => exact h.whenPassed (h.writePsrFlags _ _)
  | mul a => exact h.execMul a
  | mla a => exact h.execMla a
  | swp a => exact h.execSwp a
  | swpb a => exact h.execSwpb a
  | ldrImm a => exact h.whenPassed (confines_unlessRefused fun ok => h.loadWord _ (base_of_sdtRefusal ok))
  | ldrbImm a => exact h.whenPassed (confines_unlessRefused fun ok => h.loadByte _ (base_of_sdtRefusal ok))
  | strImm a | strbImm a => exact h.whenPassed (confines_unlessRefused fun ok => h.storeBus _ (base_of_sdtRefusal ok))
  | ldrReg a => exact h.whenPassed (confines_unlessRefused fun ok => h.loadWord _ (base_of_sdtRegRefusal ok))
  | ldrbReg a => exact h.whenPassed (confines_unlessRefused fun ok => h.loadByte _ (base_of_sdtRegRefusal ok))
  | strReg a | strbReg a =>
    exact h.whenPassed (confines_unlessRefused fun ok => h.storeBus _ (base_of_sdtRegRefusal ok))
  | undefined a => exact h.whenPassed h.enterUndefined.next
  | ldm a => exact h.execLdm a
  | stm a => exact h.execStm a
  | b a => exact h.whenPassed (h.branchTo _).next
  | bl a => exact h.whenPassed ((h.setReg (by decide) _).branchTo _).next
  | ldc a =>
    exact h.whenPassed (h.unlessCp15 (confines_unlessRefused fun ok => h.loadCoproc (base_of_cdtRefusal ok)))
  | stc a =>
    exact h.whenPassed (h.unlessCp15 (confines_unlessRefused fun ok => h.storeCoproc (base_of_cdtRefusal ok)))
  | cdp a =>
    exact h.whenPassed (h.unlessCp15 (h.handshake _ fun _ _ => (h.popAnswer.sendCoproc _ _).advance.next))
  | mrc a => exact h.execMrc a
  | mcr a => exact h.execMcr a
  | swi a => exact h.whenPassed h.enterSwi.next
  | mrcId a | mrcFsr a | mrcFar a | mcrControl a | mcrTtb a | mcrDacr a | mcrTlbFlush a | mcrTlbPurge a
  | mcrIdcFlush a => exact h.whenPassed (h.whenPrivileged _)

end

/-- Settles O24: from a User-mode state every instruction is confined, whatever its accesses come to. -/
theorem userModeIsConfined : Obligations.UserModeIsConfined := by
  intro i s t user run
  rcases (UserKept.refl user).exec i t run with reset | kept | trapped
  · exact Or.inl reset
  · exact Or.inr ⟨kept.control, kept.ttb, kept.dacr, kept.fiqMask, kept.spsrFiq, kept.spsrIrq,
      Or.inl ⟨kept.mode, kept.irqMask, kept.spsrSvc, kept.spsrAbt, kept.spsrUnd, kept.fsr, kept.far, kept.banked⟩⟩
  · exact Or.inr ⟨trapped.control, trapped.ttb, trapped.dacr, trapped.fiqMask, trapped.spsrFiq, trapped.spsrIrq,
      Or.inr ⟨trapped.irqOff, trapped.vector⟩⟩

end Sys2Proof.Machine
end

section
/-! MUL and MLA (R371 to R374): the product as arithmetic modulo 2^32, the flags of a multiply, and what each does when
it is not refused. -/

namespace Sys2Proof.Machine

/-- The sum of MLA, taken modulo 2^32 once at its end (R372). -/
theorem mul_add_eq_ofNat (x y z : Word) : x * y + z = BitVec.ofNat 32 (x.toNat * y.toNat + z.toNat) := by
  simp only [BitVec.ofNat_add, BitVec.ofNat_mul, BitVec.ofNat_toNat, BitVec.setWidth_eq]

section
variable {s : State} {a : MulArgs}

/-- The flags of a multiply whose result is defined: C alone is a free value (R374). -/
theorem multiplyFlags_eq (r : Word) : s.multiplyFlags r =
    { s.cpsr with n := r.msb, z := r == 0#32, c := wbit (Config.free .mulCarry s.draws) 0 } := by
  rw [State.multiplyFlags, Cpsr.withResult, wbit_top]
  rfl

/-- The end of a multiply, with the register, the flags and the pc that it writes (R371, R374). -/
theorem writeProduct_eq (sBit : Bool) (rd : RegNum) (r : Word) (flags : Cpsr) :
    s.writeProduct sBit rd r flags = .next { s with
      regs := s.regs.set (phys s.cpsr.mode rd) r
      cpsr := if sBit then flags else s.cpsr
      pc := s.pc + 4#32 } := rfl

/-- MUL whose operands are not refused, with the product as arithmetic (R371, R373). -/
theorem exec_mul_passed (passed : condPassed a.cond s.cpsr = true) (rd : a.rd ≠ 15#4) (rm : a.rm ≠ 15#4)
    (rs : a.rs ≠ 15#4) :
    let r : Word := if a.rd = a.rm then 0#32
      else BitVec.ofNat 32 ((s.readReg .rm a.rm 8#32).toNat * (s.readReg .rs a.rs 8#32).toNat)
    exec (.mul a) s = s.writeProduct a.s a.rd r (s.multiplyFlags r) := by
  have named : (a.rd == 15#4 || a.rm == 15#4 || a.rs == 15#4) = false := by simp [rd, rm, rs]
  exact (whenPassed_of_passed passed).trans (unlessRefused_pcRefusal named)

/-- MLA whose operands are not refused, with the sum as arithmetic; for Rd = Rm the result, N and Z are free values
(R372, R373). -/
theorem exec_mla_passed (passed : condPassed a.cond s.cpsr = true) (rd : a.rd ≠ 15#4) (rm : a.rm ≠ 15#4)
    (rs : a.rs ≠ 15#4) (rn : a.rn ≠ 15#4) :
    let r : Word := BitVec.ofNat 32 ((s.readReg .rm a.rm 8#32).toNat * (s.readReg .rs a.rs 8#32).toNat
      + (s.readReg .rn a.rn 8#32).toNat)
    exec (.mla a) s = if a.rd = a.rm then s.writeProduct a.s a.rd (Config.free .mlaResult s.draws) s.meaninglessFlags
      else s.writeProduct a.s a.rd r (s.multiplyFlags r) := by
  have named : (a.rd == 15#4 || a.rm == 15#4 || a.rs == 15#4 || a.rn == 15#4) = false := by simp [rd, rm, rs, rn]
  intro r
  refine (whenPassed_of_passed passed).trans ((unlessRefused_pcRefusal named).trans ?_)
  rw [mul_add_eq_ofNat]

end

/-- Settles O22: the free value is the C that `multiplyFlags` draws. -/
theorem multiplyResult : Obligations.MultiplyResult := by
  intro a s passed rd rm rs x y r
  refine ⟨wbit (Config.free .mulCarry s.draws) 0, ?_⟩
  rw [← multiplyFlags_eq, ← writeProduct_eq]
  exact exec_mul_passed passed rd rm rs

/-- Settles O23: for Rd = Rm the free values are those that the model draws, else C alone is. -/
theorem multiplyAccumulateResult : Obligations.MultiplyAccumulateResult := by
  intro a s passed rd rm rs rn
  have run := exec_mla_passed passed rd rm rs rn
  by_cases same : a.rd = a.rm
  · exact ⟨_, _, _, _, fun apart => absurd same apart, run.trans (if_pos same)⟩
  · refine ⟨_, _, wbit (Config.free .mulCarry s.draws) 0, _, fun _ => ⟨rfl, rfl, rfl⟩, ?_⟩
    rw [← multiplyFlags_eq, ← writeProduct_eq]
    exact run.trans (if_neg same)

end Sys2Proof.Machine
end

section
/-! Single data transfers: the addresses of every transfer as arithmetic modulo 2^32, a load whose read is done, and the
forms of the transfers that are refused. -/

namespace Sys2Proof.Machine

/-! ### Addresses and moved bases -/

/-- The length of the run of transfers is the number of registers that the list names (R411). -/
theorem length_regList (list : BitVec 16) : (regList list).length = listSize list := List.length_map _

/-- The base moves by the size of the block, whichever of its ends is transferred first (R411). -/
theorem bdtAddresses_snd (p u : Bool) (base : Word) (n : Nat) :
    (bdtAddresses p u base n).2 =
      if u then base + BitVec.ofNat 32 (4 * n) else base - BitVec.ofNat 32 (4 * n) := by
  cases u <;> cases p <;> rfl

/-- The span of a block depends on its list by the number of registers alone (R244, R411). -/
theorem bdtSpan_eq (s : State) (a : Bdt) :
    s.bdtSpan a = bdtAddresses a.p a.u (s.readReg .base a.rn 8#32) (listSize a.list) := by
  rw [State.bdtSpan, length_regList]

/-- A word offset: two zero bits below it are a multiplication by 4 (R465). -/
theorem setWidth_shiftLeft_two (offset : Byte) :
    (offset.setWidth 32 <<< 2 : Word) = BitVec.ofNat 32 (4 * offset.toNat) := by
  apply BitVec.eq_of_toNat_eq
  have small := offset.isLt
  simp only [BitVec.toNat_shiftLeft, BitVec.toNat_setWidth, BitVec.toNat_ofNat, Nat.shiftLeft_eq]
  omega

/-- Settles O27: the single transfers by their definition, the blocks by P and U, the coprocessor's word offset as a
multiplication. -/
theorem transferAddresses : Obligations.TransferAddresses := by
  refine ⟨fun s => ⟨fun a => ⟨rfl, rfl, rfl⟩, fun a => ⟨rfl, rfl, rfl⟩⟩, fun s a => ?_, fun s a => ?_⟩
  · intro base size
    rw [bdtSpan_eq]
    refine ⟨?_, bdtAddresses_snd a.p a.u base _⟩
    cases a.u <;> cases a.p <;> rfl
  · intro base offset
    refine ⟨?_, rfl, rfl⟩
    have word : offset = a.offset.setWidth 32 <<< 2 := (setWidth_shiftLeft_two a.offset).symm
    rw [word]
    rfl

/-! ### Loads -/

/-- The end of a load: the base, then the loaded register, then the next instruction or the jump (R384, R390). -/
theorem writeBack_writeRd (s : State) (rn rd : RegNum) (t : TransferAddr) (v : Word) :
    (s.writeBack rn t).writeRd rd v = s.afterLoad rn rd t v := by
  rw [writeBack_eq]
  unfold State.writeRd State.afterLoad
  split <;> rfl

/-- A word read that is done stays inside the frame of an access (R110). -/
theorem readWord_frame {s u : State} {va w : Word} {kind : ReadKind} (read : s.readWord va kind = .done w u) :
    AccessFrame s u := ((readWord_obeys s va kind).done read).frame

/-- So does a byte read. -/
theorem readByte_frame {s u : State} {va : Word} {b : Byte} {kind : ReadKind} (read : s.readByte va kind = .done b u) :
    AccessFrame s u := ((readByte_obeys s va kind).done read).frame

section
variable {s u : State} {w : Word} {b : Byte}

theorem loadWord_done {t : TransferAddr} (rn rd : RegNum) (read : s.readWord t.addr .data = .done w u) :
    s.loadWord rn rd t = .next (u.afterLoad rn rd t (rotateLoaded w t.addr)) := by
  rw [← writeBack_writeRd]
  unfold State.loadWord
  rw [read]

theorem loadByte_done {t : TransferAddr} (rn rd : RegNum) (read : s.readByte t.addr .data = .done b u) :
    s.loadByte rn rd t = .next (u.afterLoad rn rd t (b.setWidth 32)) := by
  rw [← writeBack_writeRd]
  unfold State.loadByte
  rw [read]

/-- LDR with an immediate offset whose read is done (R384). -/
theorem exec_ldrImm_done {a : SdtImm} (passed : condPassed a.cond s.cpsr = true)
    (allowed : sdtRefusal a.p a.w a.rn = none) (read : s.readWord (s.sdtAddrImm a).addr .data = .done w u) :
    exec (.ldrImm a) s = .next (u.afterLoad a.rn a.rd (s.sdtAddrImm a) (rotateLoaded w (s.sdtAddrImm a).addr)) :=
  (whenPassed_unlessRefused passed allowed).trans (loadWord_done a.rn a.rd read)

/-- LDRB with an immediate offset whose read is done (R385). -/
theorem exec_ldrbImm_done {a : SdtImm} (passed : condPassed a.cond s.cpsr = true)
    (allowed : sdtRefusal a.p a.w a.rn = none) (read : s.readByte (s.sdtAddrImm a).addr .data = .done b u) :
    exec (.ldrbImm a) s = .next (u.afterLoad a.rn a.rd (s.sdtAddrImm a) (b.setWidth 32)) :=
  (whenPassed_unlessRefused passed allowed).trans (loadByte_done a.rn a.rd read)

/-- LDR with a register offset whose read is done (R384). -/
theorem exec_ldrReg_done {a : SdtReg} (passed : condPassed a.cond s.cpsr = true)
    (allowed : sdtRegRefusal a.p a.w a.rn a.rm = none) (read : s.readWord (s.sdtAddrReg a).addr .data = .done w u) :
    exec (.ldrReg a) s = .next (u.afterLoad a.rn a.rd (s.sdtAddrReg a) (rotateLoaded w (s.sdtAddrReg a).addr)) :=
  (whenPassed_unlessRefused passed allowed).trans (loadWord_done a.rn a.rd read)

/-- LDRB with a register offset whose read is done (R385). -/
theorem exec_ldrbReg_done {a : SdtReg} (passed : condPassed a.cond s.cpsr = true)
    (allowed : sdtRegRefusal a.p a.w a.rn a.rm = none) (read : s.readByte (s.sdtAddrReg a).addr .data = .done b u) :
    exec (.ldrbReg a) s = .next (u.afterLoad a.rn a.rd (s.sdtAddrReg a) (b.setWidth 32)) :=
  (whenPassed_unlessRefused passed allowed).trans (loadByte_done a.rn a.rd read)

end

/-- Settles O29: a load whose read is done loads what was read, and in the flat memory every read is done. -/
theorem loadsComplete : Obligations.LoadsComplete := by
  refine ⟨fun s flat => ⟨fun a passed allowed => ?_, fun a passed allowed => ?_⟩, fun s u => ⟨?_, ?_, ?_, ?_⟩⟩
  · exact ⟨exec_ldrImm_done passed allowed (flat.readWord _ _), exec_ldrbImm_done passed allowed (flat.readByte _ _)⟩
  · exact ⟨exec_ldrReg_done passed allowed (flat.readWord _ _), exec_ldrbReg_done passed allowed (flat.readByte _ _)⟩
  · exact fun a w passed allowed read => ⟨readWord_frame read, exec_ldrImm_done passed allowed read⟩
  · exact fun a b passed allowed read => ⟨readByte_frame read, exec_ldrbImm_done passed allowed read⟩
  · exact fun a w passed allowed read => ⟨readWord_frame read, exec_ldrReg_done passed allowed read⟩
  · exact fun a b passed allowed read => ⟨readByte_frame read, exec_ldrbReg_done passed allowed read⟩

/-! ### The forms that are refused -/

/-- The forms of a single transfer that are not refused (R389, R391). -/
theorem sdtRefusal_eq_none_iff {p w : Bool} {rn : RegNum} :
    sdtRefusal p w rn = none ↔ (rn = 15#4 → p = true ∧ w = false) ∧ (w = true → p = true) := by
  unfold sdtRefusal
  by_cases pc : rn = 15#4 <;> cases p <;> cases w <;> simp [pc]

/-- With a register offset R15 as the offset, and a post-indexed transfer whose offset is its base, are refused besides
(R389). -/
theorem sdtRegRefusal_eq_none_iff {p w : Bool} {rn rm : RegNum} :
    sdtRegRefusal p w rn rm = none ↔ rm ≠ 15#4 ∧ sdtRefusal p w rn = none ∧ (p = false → rm ≠ rn) := by
  unfold sdtRegRefusal
  split
  case isTrue offsetPc => simp [offsetPc]
  case isFalse offsetPc =>
    split
    case isTrue basePc =>
      have refused : sdtRefusal p w rn = some .pcWriteBack := if_pos basePc
      simp [refused]
    case isFalse =>
      split
      case isTrue same =>
        have postIndexed : p = false ∧ rm = rn := by simpa using same
        simp [postIndexed]
      case isFalse apart =>
        have allowed : p = false → rm ≠ rn := by simpa using apart
        exact ⟨fun h => ⟨offsetPc, h, allowed⟩, fun ⟨_, h, _⟩ => h⟩

/-- An instruction whose condition passes and whose form is refused ends in that refusal. -/
theorem whenPassed_refused {c : Cond} {s : State} {refusal : Option Refusal} {r : Refusal} {k : Result}
    (passed : condPassed c s.cpsr = true) (h : refusal = some r) :
    whenPassed c s (unlessRefused refusal k) = .refused r := by
  rw [whenPassed_of_passed passed, h]
  rfl

section
variable {a : Bdt} {load privileged : Bool}

theorem bdtRefusal_of_pc (rn : a.rn = 15#4) : bdtRefusal a load privileged = some .pcOperand := if_pos rn

theorem bdtRefusal_of_empty (rn : a.rn ≠ 15#4) (empty : a.list = 0#16) :
    bdtRefusal a load privileged = some .emptyList := (if_neg rn).trans (if_pos empty)

theorem bdtRefusal_of_userBank (rn : a.rn ≠ 15#4) (list : a.list ≠ 0#16) (user : bdtUserBank a load = true)
    (w : a.w = true) : bdtRefusal a load privileged = some .userBankWriteBack := by
  simp only [bdtRefusal, if_neg rn, if_neg list, user, w, Bool.and_self, if_true]

/-- LDM with S and R15 reaches no User bank, so that it is the missing SPSR which refuses it in User mode (R420,
R426). -/
theorem bdtRefusal_of_spsr (rn : a.rn ≠ 15#4) (list : a.list ≠ 0#16) (s : a.s = true)
    (pc : a.list.getLsbD 15 = true) : bdtRefusal a true false = some .spsrInUser := by
  have currentBank : bdtUserBank a true = false := by simp [bdtUserBank, pc]
  simp only [bdtRefusal, if_neg rn, if_neg list, currentBank, s, pc, Bool.false_and, Bool.false_eq_true, if_false,
    Bool.and_self, Bool.not_false, if_true]

end

/-- LDC and STC of coprocessors 0 to 14 refuse write-back to R15 (R465). -/
theorem exec_cdt_refused {s : State} {a : Cdt} (passed : condPassed a.cond s.cpsr = true) (cp : a.cp ≠ 15#4)
    (rn : a.rn = 15#4) (w : a.w = true) :
    exec (.ldc a) s = .refused .pcWriteBack ∧ exec (.stc a) s = .refused .pcWriteBack := by
  have refusal : cdtRefusal a = some .pcWriteBack := by simp [cdtRefusal, rn, w]
  have refused {k : Result} : (if a.cp = 15#4 then .next s.enterUndefined else unlessRefused (cdtRefusal a) k)
      = .refused .pcWriteBack := by
    rw [if_neg cp, refusal]
    rfl
  exact ⟨(whenPassed_of_passed passed).trans refused, (whenPassed_of_passed passed).trans refused⟩

/-- Settles O33: every transfer tests its form before it does anything else, so each clause is a case of its test. -/
theorem transferRefusals : Obligations.TransferRefusals := by
  refine ⟨⟨fun p w rn => sdtRefusal_eq_none_iff, fun p w rn rm => ?_, fun s a r passed refusal => ?_,
    fun s a r passed refusal => ?_⟩, fun s a passed => ⟨fun rn => ?_, fun rn empty => ?_,
    fun rn list user w => ⟨?_, fun noPc => ?_⟩, fun rn list user pc mode => ?_⟩, fun s a => exec_cdt_refused⟩
  · rw [sdtRegRefusal_eq_none_iff, sdtRefusal_eq_none_iff, and_assoc]
  · have refused {k : Result} := whenPassed_refused (k := k) passed refusal
    exact ⟨refused, refused, refused, refused⟩
  · have refused {k : Result} := whenPassed_refused (k := k) passed refusal
    exact ⟨refused, refused, refused, refused⟩
  · exact ⟨whenPassed_refused passed (bdtRefusal_of_pc rn), whenPassed_refused passed (bdtRefusal_of_pc rn)⟩
  · exact ⟨whenPassed_refused passed (bdtRefusal_of_empty rn empty),
      whenPassed_refused passed (bdtRefusal_of_empty rn empty)⟩
  · have userBank : bdtUserBank a false = true := by simp [bdtUserBank, user]
    exact whenPassed_refused passed (bdtRefusal_of_userBank rn list userBank w)
  · have userBank : bdtUserBank a true = true := by
      simp only [bdtUserBank, user, noPc, Bool.and_false, Bool.not_false, Bool.and_self]
    exact whenPassed_refused passed (bdtRefusal_of_userBank rn list userBank w)
  · refine whenPassed_refused passed ?_
    rw [not_privileged_of_usr mode]
    exact bdtRefusal_of_spsr rn list user pc

end Sys2Proof.Machine
end

section
/-! LDM with the memory system as it is after reset: the words that a run of loads brings, and the end of the
instruction. -/

namespace Sys2Proof.Machine

/-! ### The words that a run of loads brings -/

/-- The bank to or from which a block transfer moves registers (R421, R422). -/
def State.blockBank (s : State) (user : Bool) : Mode := if user then .usr else s.cpsr.mode

/-- The loads of some slots in `s`, and of no others, leave `regs` and the word `w` for R15, which was `newPc` before
them (R415). -/
structure Loaded (s : State) (bank : Mode) (l : List (RegNum × Word)) (newPc w : Word) (regs : Vector Word 30) :
    Prop where
  register : ∀ p ∈ l, p.1 ≠ 15#4 → regs[phys bank p.1] = Memory.readWord s.mem p.2
  pc : ∀ p ∈ l, p.1 = 15#4 → w = Memory.readWord s.mem p.2
  pcKept : (∀ p ∈ l, p.1 ≠ 15#4) → w = newPc
  kept : ∀ k : Fin 30, (∀ p ∈ l, p.1 ≠ 15#4 → phys bank p.1 ≠ k) → regs[k] = s.regs[k]

section
variable {s : State} {bank : Mode} {r : RegNum} {addr newPc w : Word} {l : List (RegNum × Word)} {regs : Vector Word 30}

theorem Loaded.nil (s : State) (bank : Mode) (newPc : Word) : Loaded s bank [] newPc newPc s.regs where
  register _ mem := absurd mem List.not_mem_nil
  pc _ mem := absurd mem List.not_mem_nil
  pcKept _ := rfl
  kept _ _ := rfl

/-- A load of R15 before those of other registers. -/
theorem Loaded.cons_pc (h : Loaded s bank l (Memory.readWord s.mem addr) w regs) (once : ∀ p ∈ l, p.1 ≠ 15#4) :
    Loaded s bank ((15#4, addr) :: l) newPc w regs where
  register := List.forall_mem_cons.2 ⟨fun other => absurd rfl other, h.register⟩
  pc := List.forall_mem_cons.2 ⟨fun _ => h.pcKept once, h.pc⟩
  pcKept none := absurd rfl (List.forall_mem_cons.1 none).1
  kept k apart := h.kept k (List.forall_mem_cons.1 apart).2

/-- A load of another register before those of registers with other numbers: none of them reaches its place. -/
theorem Loaded.cons_reg (h : Loaded (s.setRegIn bank r (Memory.readWord s.mem addr)) bank l newPc w regs)
    (notPc : r ≠ 15#4) (once : ∀ p ∈ l, p.1 ≠ r) : Loaded s bank ((r, addr) :: l) newPc w regs where
  register := by
    refine List.forall_mem_cons.2 ⟨fun _ => ?_, h.register⟩
    have untouched := h.kept (phys bank r) fun p hp hpc e => once p hp ((phys_eq_iff hpc notPc).1 e).1
    exact untouched.trans (Vector.getElem_set_self _)
  pc := List.forall_mem_cons.2 ⟨fun isPc => absurd isPc notPc, h.pc⟩
  pcKept others := h.pcKept (List.forall_mem_cons.1 others).2
  kept k apart := by
    obtain ⟨own, others⟩ := List.forall_mem_cons.1 apart
    calc regs[k]
      _ = (s.setRegIn bank r (Memory.readWord s.mem addr)).regs[k] := h.kept k others
      _ = s.regs[k] := Vector.getElem_set_ne (phys bank r).isLt k.isLt fun e => own notPc (Fin.ext e)

end

/-- A slot of a run lies a whole number of words after the first address. -/
theorem mem_slots {list : List RegNum} {addr : Word} {p : RegNum × Word} (h : p ∈ slots list addr) :
    p.1 ∈ list ∧ ∃ i < list.length, p.2 = addr + BitVec.ofNat 32 (4 * i) := by
  induction list generalizing addr with
  | nil => exact absurd h List.not_mem_nil
  | cons r rest ih =>
    rcases List.mem_cons.1 h with rfl | later
    · exact ⟨List.mem_cons_self, 0, Nat.succ_pos _, by simp⟩
    · obtain ⟨listed, i, bound, place⟩ := ih later
      refine ⟨List.mem_cons_of_mem r listed, i + 1, Nat.succ_lt_succ bound, ?_⟩
      rw [place, BitVec.add_assoc, Nat.mul_succ, Nat.add_comm, BitVec.ofNat_add]

theorem forall_mem_slots_ne {r : RegNum} {rest : List RegNum} (nodup : (r :: rest).Nodup) (addr : Word) :
    ∀ p ∈ slots rest addr, p.1 ≠ r :=
  fun _ hp e => (List.nodup_cons.1 nodup).1 (e ▸ (mem_slots hp).1)

/-- R415: in the flat memory every load of a run is done, and no later one undoes it. -/
theorem ldmTransfers_flat {s : State} (flat : Flat s) (user : Bool) {list : List RegNum} (nodup : list.Nodup)
    (addr newPc : Word) : ∃ w regs, ldmTransfers user list addr newPc none s = .done w none { s with regs := regs }
      ∧ Loaded s (s.blockBank user) (slots list addr) newPc w regs := by
  induction list generalizing addr newPc s with
  | nil => exact ⟨newPc, s.regs, rfl, Loaded.nil s _ newPc⟩
  | cons r rest ih =>
    have once := forall_mem_slots_ne nodup (addr + 4#32)
    unfold ldmTransfers slots
    rw [flat.readWord]
    by_cases pc : r = 15#4
    · subst pc
      obtain ⟨w, regs, run, loaded⟩ := ih flat nodup.of_cons (addr + 4#32) (Memory.readWord s.mem addr)
      exact ⟨w, regs, run, loaded.cons_pc once⟩
    · obtain ⟨w, regs, run, loaded⟩ := ih (s := s.setRegIn (s.blockBank user) r (Memory.readWord s.mem addr))
        { flat with } nodup.of_cons (addr + 4#32) newPc
      exact ⟨w, regs, (if_neg pc).trans run, loaded.cons_reg pc once⟩

theorem regList_nodup (list : BitVec 16) : (regList list).Nodup :=
  (regList_ascending list).imp fun lower e => absurd (congrArg BitVec.toNat e) lower.ne

/-- What is said of the slots of a register list is said of each listed register at its slot (R411). -/
theorem forall_mem_slots_regList {list : BitVec 16} {first : Word} {P : RegNum × Word → Prop} :
    (∀ p ∈ slots (regList list) first, P p) ↔
      ∀ r : RegNum, list.getLsbD r.toNat = true → P (r, slotAddr first list r) := by
  simp only [slots_regList, List.forall_mem_map, mem_regList]

/-! ### LDM -/

theorem blockWriteBack_eq (s : State) (wb : Option (RegNum × Word)) :
    s.blockWriteBack wb = { s with regs := (s.blockWriteBack wb).regs } := by
  cases wb <;> rfl

/-- A register after the write-back of a block transfer: the moved base or as it was (R411). -/
theorem bdtWriteBack_getElem (s : State) (a : Bdt) (k : Fin 30) : (s.blockWriteBack (s.bdtWriteBack a)).regs[k] =
    if a.w = true ∧ k = phys s.cpsr.mode a.rn then (s.bdtSpan a).2 else s.regs[k] := by
  rw [bdtWriteBack_regs]
  cases a.w with
  | false => simp
  | true => simp [Vector.getElem_set, Fin.ext_iff, eq_comm]

/-- R415, R417: what an LDM leaves in the registers, and the word `w` for R15. -/
structure BlockLoaded (s : State) (a : Bdt) (bank : Mode) (w : Word) (regs : Vector Word 30) : Prop where
  register : ∀ r : RegNum, r ≠ 15#4 → a.list.getLsbD r.toNat = true →
    regs[phys bank r] = Memory.readWord s.mem (slotAddr (s.bdtSpan a).1 a.list r)
  pc : a.list.getLsbD 15 = true → w = Memory.readWord s.mem (slotAddr (s.bdtSpan a).1 a.list 15#4)
  other : ∀ k : Fin 30, (∀ r : RegNum, r ≠ 15#4 → a.list.getLsbD r.toNat = true → phys bank r ≠ k) →
    regs[k] = if a.w = true ∧ k = phys s.cpsr.mode a.rn then (s.bdtSpan a).2 else s.regs[k]

/-- The end of an LDM whose loads are done: the return, the jump or the next instruction (R415, R420, R590). -/
def State.ldmEnd (s : State) (a : Bdt) (newPc : Word) : Result :=
  if a.list.getLsbD 15 then
    if a.s then s.returnTo newPc else .next (s.branchTo newPc)
  else .next (s.startHazard (bdtUserBank a true)).advance

/-- R415, R417: an LDM in the flat memory loads its registers over the moved base, then ends. -/
theorem exec_ldm_flat {s : State} {a : Bdt} (flat : Flat s) (passed : condPassed a.cond s.cpsr = true)
    (allowed : bdtRefusal a true s.privileged = none) :
    ∃ w regs, exec (.ldm a) s = State.ldmEnd { s with regs := regs } a w
      ∧ BlockLoaded s a (s.blockBank (bdtUserBank a true)) w regs := by
  have start : (if a.w then s.setReg a.rn (s.bdtSpan a).2 else s) = s.blockWriteBack (s.bdtWriteBack a) := by
    unfold State.bdtWriteBack
    split <;> rfl
  have moved := blockWriteBack_eq s (s.bdtWriteBack a)
  obtain ⟨w, regs, run, loaded⟩ := ldmTransfers_flat (s := s.blockWriteBack (s.bdtWriteBack a))
    (moved ▸ { flat with }) (bdtUserBank a true) (regList_nodup a.list) (s.bdtSpan a).1 0#32
  rw [State.blockBank, State.blockWriteBack_cpsr] at loaded
  obtain ⟨register, pc, -, kept⟩ := loaded
  simp only [forall_mem_slots_regList, State.blockWriteBack_mem] at register pc kept
  refine ⟨w, regs, (whenPassed_unlessRefused passed allowed).trans ?_, fun r notPc listed => register r listed notPc,
    fun listed => pc 15#4 listed rfl, fun k apart => ?_⟩
  · dsimp only
    rw [start, run, moved]
    rfl
  · exact (kept k fun r listed notPc => apart r notPc listed).trans (bdtWriteBack_getElem s a k)

/-- In a privileged mode LDM with R15 and S is refused only for R15 as its base (R412, R420, R422). -/
theorem bdtRefusal_ldm_return {a : Bdt} (rn : a.rn ≠ 15#4) (s : a.s = true) (pc : a.list.getLsbD 15 = true) :
    bdtRefusal a true true = none := by
  have nonempty : a.list ≠ 0#16 := by
    intro empty
    simp [empty] at pc
  simp [bdtRefusal, bdtUserBank, rn, nonempty, s, pc]

/-- Settles O35: the registers are those of the run of loads; the end is the next instruction with the hazard of a
User-bank LDM, the jump, or the return with the SPSR. -/
theorem ldmCompletes : Obligations.LdmCompletes := by
  refine ⟨fun s a flat passed allowed form => ?_, fun s a p flat passed rn sBit listed held => ?_⟩
  · obtain ⟨w, regs, run, loaded⟩ := exec_ldm_flat flat passed allowed
    have user : bdtUserBank a true = a.s := by
      rcases form with noS | noPc
      · simp only [bdtUserBank, noS, Bool.false_and]
      · simp only [bdtUserBank, noPc, Bool.and_false, Bool.not_false, Bool.and_true]
    rw [user] at loaded
    refine ⟨{ s with regs := regs }, run.trans ?_, loaded.register, loaded.other⟩
    unfold State.ldmEnd
    cases jump : a.list.getLsbD 15 with
    | true =>
      have noS : a.s = false := form.resolve_right (by simp [jump])
      simp only [noS, loaded.pc jump, State.branchTo, if_true, Bool.false_eq_true, if_false, Bool.false_and]
    | false =>
      simp only [user, State.startHazard, State.privileged, State.advance, Bool.false_eq_true, if_false]
      split <;> rfl
  · have privileged := privileged_of_spsrOf held
    have currentBank : bdtUserBank a true = false := by simp [bdtUserBank, listed]
    obtain ⟨w, regs, run, loaded⟩ := exec_ldm_flat flat passed (privileged ▸ bdtRefusal_ldm_return rn sBit listed)
    rw [currentBank] at loaded
    have returns : exec (.ldm a) s = State.returnTo { s with regs := regs } w := by
      rw [run, State.ldmEnd, if_pos listed, if_pos sBit]
    rw [returns, loaded.pc listed]
    refine ⟨fun m valid => ⟨{ s with regs := regs }, ?_, loaded.register, loaded.other⟩, fun invalid => ?_⟩
    · exact restoreCpsr_mode (s := State.branchTo { s with regs := regs } _) held valid
    · exact restoreCpsr_noMode (s := State.branchTo { s with regs := regs } _) held invalid

end Sys2Proof.Machine
end

section
/-! STM with the memory system as it is after reset: the words that a run of stores leaves in its slots, and the end of the
instruction. -/

namespace Sys2Proof.Machine

/-! ### Slots apart -/

/-- The bytes of a bus word lie outside the words that are 1 to 15 words further on (R411). -/
theorem outsideWord_add {addr : Word} {i k : Nat} (pos : 0 < i) (bound : i < 16) (byte : k < 4) :
    outsideWord (addr + BitVec.ofNat 32 (4 * i)) ((wordAddr addr).toNat + k) := by
  have lt := addr.isLt
  simp only [outsideWord, wordAddr_toNat, BitVec.toNat_add, BitVec.toNat_ofNat]
  omega

theorem readWord_eq_of_read {m m' : Memory} {a : Word}
    (h : ∀ k < 4, Memory.read m' ((wordAddr a).toNat + k) = Memory.read m ((wordAddr a).toNat + k)) :
    Memory.readWord m' a = Memory.readWord m a := by
  have first := h 0 (by decide)
  rw [Nat.add_zero] at first
  unfold Memory.readWord
  simp only [first, h 1 (by decide), h 2 (by decide), h 3 (by decide)]

/-- The first slot of a run of at most 16 transfers lies outside the later ones. -/
theorem outsideSlots_later {rest : List RegNum} {addr : Word} (short : rest.length < 16) {k : Nat} (byte : k < 4) :
    outsideSlots (slots rest (addr + 4#32)) ((wordAddr addr).toNat + k) := by
  intro p hp
  obtain ⟨-, i, bound, place⟩ := mem_slots hp
  have further : p.2 = addr + BitVec.ofNat 32 (4 * (i + 1)) := by
    rw [place, BitVec.add_assoc, Nat.mul_succ, Nat.add_comm, BitVec.ofNat_add]
  rw [further]
  exact outsideWord_add (Nat.succ_pos i) (by omega) byte

/-! ### The words that a run of stores leaves -/

/-- The register that STM reads is not one that R590 makes free: the User bank has no such hazard. -/
def State.Readable (s : State) (user : Bool) (r : RegNum) : Prop := user = true ∨ s.hazardous r = false

/-- `t` is `s` after stores to some slots: it differs in memory, within the slots, and where the cache holds a line in the
cache and the free values; the slot of each readable register holds its `word` (R416, log entry 37). -/
structure Stored (user : Bool) (word : RegNum → Word) (l : List (RegNum × Word)) (s t : State) : Prop where
  within : StoresWithin s t (outsideSlots l)
  canonical : Memory.wf t.mem = true
  uncached : s.idc = Vector.replicate 256 none → t.idc = s.idc ∧ t.draws = s.draws
  slot : ∀ p ∈ l, s.Readable user p.1 → Memory.readWord t.mem p.2 = word p.1

section
variable {s t u : State} {user : Bool} {word : RegNum → Word} {l : List (RegNum × Word)} {addr : Word} {r : RegNum}

theorem Stored.nil (canonical : Memory.wf s.mem = true) : Stored user word [] s s :=
  ⟨⟨s.mem, s.idc, s.draws, rfl, fun _ _ => rfl⟩, canonical, fun _ => ⟨rfl, rfl⟩,
    fun _ mem => absurd mem List.not_mem_nil⟩

/-- A later run that leaves the first slot alone leaves its word there. -/
theorem Stored.cons (first : Stored user word [(r, addr)] s t) (later : Stored user word l t u)
    (apart : ∀ k < 4, outsideSlots l ((wordAddr addr).toNat + k)) : Stored user word ((r, addr) :: l) s u where
  within := first.within.trans later.within fun b outside =>
    ⟨List.forall_mem_singleton.2 (List.forall_mem_cons.1 outside).1, (List.forall_mem_cons.1 outside).2⟩
  canonical := later.canonical
  uncached empty := by
    obtain ⟨idc, draws⟩ := first.uncached empty
    obtain ⟨idc', draws'⟩ := later.uncached (idc.trans empty)
    exact ⟨idc'.trans idc, draws'.trans draws⟩
  slot := by
    obtain ⟨m, c, d, rfl, -⟩ := first.within
    obtain ⟨m', c', d', rfl, same⟩ := later.within
    refine List.forall_mem_cons.2 ⟨fun readable => ?_, later.slot⟩
    rw [readWord_eq_of_read fun k byte => same _ (apart k byte)]
    exact first.slot (r, addr) List.mem_cons_self readable

/-- A write-back after a store is one before it (R416). -/
theorem Stored.blockWriteBack (h : Stored user word l s t) (wb : Option (RegNum × Word)) :
    Stored user word l (s.blockWriteBack wb) (t.blockWriteBack wb) := by
  obtain ⟨within, canonical, uncached, slot⟩ := h
  cases wb <;> exact ⟨within.blockWriteBack _, canonical, uncached, slot⟩

end

theorem StoresWithin.flat {s t : State} {outside : Nat → Prop} (h : StoresWithin s t outside) (flat : Flat s) :
    Flat t := by
  obtain ⟨m, c, d, rfl, -⟩ := h
  exact { flat with }

theorem Flat.blockWriteBack {s : State} (flat : Flat s) (wb : Option (RegNum × Word)) : Flat (s.blockWriteBack wb) := by
  cases wb <;> exact { flat with }

theorem idcFind_of_empty {s : State} (h : s.idc = Vector.replicate 256 none) (va : Word) : s.idcFind va = none := by
  refine List.findSome?_eq_none_iff.2 fun line listed => ?_
  rw [h, Vector.toList_replicate] at listed
  rw [List.eq_of_mem_replicate listed, Option.filter_none]

/-- What STM stores for a readable register: `pc + 12` for R15, else the register in the bank (R40, R418, R421). -/
def State.blockWord (s : State) (user : Bool) (r : RegNum) : Word :=
  if r = 15#4 then s.pc + 12#32 else s.regIn (s.blockBank user) r

theorem blockWord_eq {s : State} {user : Bool} {r : RegNum} (readable : s.Readable user r) :
    (if user then s.readUserReg r 12#32 else s.readReg .listed r 12#32) = s.blockWord user r := by
  cases user with
  | true => rfl
  | false =>
    have calm : s.hazardous r = false := readable.resolve_left Bool.false_ne_true
    simp only [State.readReg, calm, Bool.false_eq_true, if_false]
    rfl

theorem StoresWithin.blockWord {s t : State} {outside : Nat → Prop} (h : StoresWithin s t outside) :
    t.blockWord = s.blockWord := by
  obtain ⟨m, c, d, rfl, -⟩ := h
  rfl

/-- One store of a word to the slot of a register, in the flat memory. -/
theorem Stored.one {s : State} (canonical : Memory.wf s.mem = true) {user : Bool} {word : RegNum → Word} {r : RegNum}
    {v addr : Word} (holds : s.Readable user r → v = word r) {c : Vector (Option IdcLine) 256} {d : Nat}
    (uncached : s.idcFind addr = none → c = s.idc ∧ d = s.draws) : Stored user word [(r, addr)] s
      { s with mem := (BusWrite.word v).onMemory s.mem addr, idc := c, draws := d } where
  within := ⟨_, c, d, rfl, fun _ outside => read_onMemory_outside (outside (r, addr) List.mem_cons_self)⟩
  canonical := Memory.wf_writeWord addr v canonical
  uncached empty := uncached (idcFind_of_empty empty addr)
  slot := List.forall_mem_singleton.2 fun readable =>
    (Memory.readWord_writeWord addr v canonical).trans (holds readable)

/-- One store of an STM in the flat memory: it is done, and the base is written back after it (R416). -/
theorem stmTransfers_cons_flat {s : State} (flat : Flat s) (canonical : Memory.wf s.mem = true) {user : Bool}
    {word : RegNum → Word} {r : RegNum} (holds : word r = s.blockWord user r) (wb : Option (RegNum × Word))
    (rest : List RegNum) (addr : Word) (seq : Bool) :
    ∃ t, Stored user word [(r, addr)] s t ∧ stmTransfers user wb (r :: rest) addr seq none s =
      stmTransfers user none rest (addr + 4#32) true none (t.blockWriteBack wb) := by
  obtain ⟨c, d, stored, uncached⟩ := flat.memWrite_any addr
    (.word (if user then s.readUserReg r 12#32 else s.readReg .listed r 12#32)) false seq
  refine ⟨_, Stored.one canonical (fun readable => (blockWord_eq readable).trans holds.symm) uncached, ?_⟩
  rw [stmTransfers, stored]

/-- A run of stores in the flat memory with no base to write back. -/
theorem stmTransfers_flat {s : State} (flat : Flat s) (canonical : Memory.wf s.mem = true) {user : Bool}
    {word : RegNum → Word} {list : List RegNum} (short : list.length ≤ 16)
    (holds : ∀ r ∈ list, word r = s.blockWord user r) (addr : Word) (seq : Bool) :
    ∃ t, Stored user word (slots list addr) s t ∧ stmTransfers user none list addr seq none s = .done 0#32 none t := by
  induction list generalizing addr seq s with
  | nil => exact ⟨s, Stored.nil canonical, rfl⟩
  | cons r rest ih =>
    obtain ⟨here, others⟩ := List.forall_mem_cons.1 holds
    obtain ⟨t, first, step⟩ := stmTransfers_cons_flat flat canonical here none rest addr seq
    obtain ⟨u, later, run⟩ := ih (first.within.flat flat) first.canonical (Nat.le_of_succ_le short)
      (first.within.blockWord ▸ others) (addr + 4#32) true
    exact ⟨u, first.cons later fun k => outsideSlots_later short, step.trans run⟩

/-! ### STM -/

/-- A register is the first to be transferred exactly where no listed register is lower (R411). -/
theorem listRank_eq_zero_iff {list : BitVec 16} {r : RegNum} :
    listRank list r = 0 ↔ ∀ q ∈ regList list, r.toNat ≤ q.toNat := by
  rw [listRank, List.length_eq_zero_iff, List.filter_eq_nil_iff]
  simp only [List.mem_range, mem_regList]
  constructor
  · intro none q listed
    exact not_lt.1 fun lower => none q.toNat lower listed
  · intro lowest i below listed
    have number : (BitVec.ofNat 4 i).toNat = i := Nat.mod_eq_of_lt (below.trans r.isLt)
    have bound := lowest (BitVec.ofNat 4 i) (number.symm ▸ listed)
    omega

theorem regList_ne_nil {list : BitVec 16} (h : list ≠ 0#16) : regList list ≠ [] := by
  intro empty
  refine h (BitVec.eq_of_getLsbD_eq fun i bound => ?_)
  have unlisted : BitVec.ofNat 4 i ∉ regList list := empty ▸ List.not_mem_nil
  rw [mem_regList, BitVec.toNat_ofNat, Nat.mod_eq_of_lt bound, Bool.not_eq_true] at unlisted
  rw [unlisted, BitVec.getLsbD_zero]

/-- A list that names a register names a lowest one, which is the only one of rank 0 (R411, R416). -/
theorem exists_lowest {list : BitVec 16} (h : list ≠ 0#16) :
    ∃ r rest, regList list = r :: rest ∧ listRank list r = 0 ∧ ∀ q ∈ rest, listRank list q ≠ 0 := by
  obtain ⟨r, rest, split⟩ := List.exists_cons_of_ne_nil (regList_ne_nil h)
  obtain ⟨above, -⟩ := List.pairwise_cons.1 (split ▸ regList_ascending list)
  refine ⟨r, rest, split, listRank_eq_zero_iff.2 ?_, fun q hq zero => ?_⟩
  · rw [split]
    exact List.forall_mem_cons.2 ⟨le_rfl, fun q hq => (above q hq).le⟩
  · exact (above q hq).not_ge (listRank_eq_zero_iff.1 zero r (split ▸ List.mem_cons_self))

theorem length_regList_le (list : BitVec 16) : (regList list).length ≤ 16 := by
  rw [length_regList]
  exact (List.length_filter_le _ _).trans_eq List.length_range

/-- R421: for STM it is S alone that asks for the User bank. -/
theorem bdtUserBank_store (a : Bdt) : bdtUserBank a false = a.s := by
  rw [bdtUserBank, Bool.false_and, Bool.not_false, Bool.and_true]

/-- A block transfer that is not refused has a base below R15, a register to move, and no write-back where it is about the
User bank (R412, R417, R421, R426). -/
theorem bdt_of_not_refused {a : Bdt} {load privileged : Bool} (allowed : bdtRefusal a load privileged = none) :
    a.rn ≠ 15#4 ∧ a.list ≠ 0#16 ∧ (a.w = true → bdtUserBank a load = false) := by
  have rn : a.rn ≠ 15#4 := fun pc => by cases (bdtRefusal_of_pc pc).symm.trans allowed
  have list : a.list ≠ 0#16 := fun empty => by cases (bdtRefusal_of_empty rn empty).symm.trans allowed
  refine ⟨rn, list, fun w => Bool.eq_false_iff.2 fun user => ?_⟩
  cases (bdtRefusal_of_userBank rn list user w).symm.trans allowed

/-- The word that STM leaves in the slot of a register: as before the base moved for the first, as after it for the others
(R418). -/
def State.stmWord (s : State) (a : Bdt) (r : RegNum) : Word :=
  if listRank a.list r = 0 then s.blockWord a.s r else (s.blockWriteBack (s.bdtWriteBack a)).blockWord a.s r

/-- Only the base differs between the two (R418). -/
theorem stmWord_eq {s : State} {a : Bdt} (rn : a.rn ≠ 15#4) (noBank : a.w = true → a.s = false) (r : RegNum) :
    s.stmWord a r = if r = 15#4 then s.pc + 12#32
      else if a.w = true ∧ r = a.rn ∧ listRank a.list r ≠ 0 then (s.bdtSpan a).2
      else s.regIn (s.blockBank a.s) r := by
  unfold State.stmWord State.blockWord
  by_cases pc : r = 15#4
  · simp [pc]
  · have own : a.w = true ∧ phys (s.blockBank a.s) r = phys s.cpsr.mode a.rn ↔ a.w = true ∧ r = a.rn := by
      refine and_congr_right fun w => ?_
      simp [State.blockBank, noBank w, phys_eq_iff pc rn]
    have moved : (s.blockWriteBack (s.bdtWriteBack a)).regIn (s.blockBank a.s) r =
        if a.w = true ∧ r = a.rn then (s.bdtSpan a).2 else s.regIn (s.blockBank a.s) r := by
      simp only [State.regIn, bdtWriteBack_getElem, own]
    have bank : (s.blockWriteBack (s.bdtWriteBack a)).blockBank a.s = s.blockBank a.s := by
      simp only [State.blockBank, State.blockWriteBack_cpsr]
    by_cases lowest : listRank a.list r = 0
    · simp [pc, lowest]
    · simp only [if_neg pc, bank, moved, ne_eq, lowest, not_false_eq_true, and_true, if_false]

/-- R416, R418: an STM in the flat memory leaves its words in the slots and the base written back. -/
theorem exec_stm_flat {s : State} {a : Bdt} (flat : Flat s) (canonical : Memory.wf s.mem = true)
    (passed : condPassed a.cond s.cpsr = true) (allowed : bdtRefusal a false s.privileged = none) :
    ∃ t, exec (.stm a) s = .next t.advance
      ∧ Stored a.s (s.stmWord a) (slots (regList a.list) (s.bdtSpan a).1) (s.blockWriteBack (s.bdtWriteBack a)) t := by
  obtain ⟨-, nonempty, -⟩ := bdt_of_not_refused allowed
  obtain ⟨r, rest, list, lowest, higher⟩ := exists_lowest nonempty
  have short := length_regList_le a.list
  rw [list] at short
  obtain ⟨t, first, step⟩ := stmTransfers_cons_flat (user := a.s) (word := s.stmWord a) flat canonical (if_pos lowest)
    (s.bdtWriteBack a) rest (s.bdtSpan a).1 false
  have moved := first.blockWriteBack (s.bdtWriteBack a)
  obtain ⟨u, later, run⟩ := stmTransfers_flat (user := a.s) (word := s.stmWord a)
    (moved.within.flat (flat.blockWriteBack _)) moved.canonical (Nat.le_of_succ_le short)
    (fun q hq => (if_neg (higher q hq)).trans (by rw [moved.within.blockWord])) ((s.bdtSpan a).1 + 4#32) true
  refine ⟨u, (whenPassed_unlessRefused passed allowed).trans ?_, ?_⟩
  · rw [State.bdtWriteBack] at step run
    dsimp only
    rw [bdtUserBank_store, list, step, run]
  · rw [list]
    exact moved.cons later fun k => outsideSlots_later short

/-- Settles O36: the run of stores leaves each word in its slot, since the slots are apart. -/
theorem stmCompletes : Obligations.StmCompletes := by
  intro s a flat canonical passed allowed
  obtain ⟨rn, -, noBank⟩ := bdt_of_not_refused allowed
  rw [bdtUserBank_store] at noBank
  obtain ⟨t, run, within, -, uncached, slot⟩ := exec_stm_flat flat canonical passed allowed
  obtain ⟨m, c, d, rfl, same⟩ := within
  have start := blockWriteBack_eq s (s.bdtWriteBack a)
  rw [bdtWriteBack_regs] at start
  rw [start] at run same uncached slot
  refine ⟨m, c, d, run, uncached, fun b outside => same b (forall_mem_slots_regList.2 outside),
    fun r listed readable => ?_⟩
  exact (forall_mem_slots_regList.1 slot r listed readable).trans (stmWord_eq rn noBank r)

end Sys2Proof.Machine
end

section
/-! Swaps in the flat memory: SWP and SWPB are one read and one write at the address of the base. -/

namespace Sys2Proof.Machine

/-- R441, R442: what a swap of R`rm` at `va` writes: its least significant byte for SWPB, the whole word for SWP. -/
def State.swappedWrite (s : State) (byte : Bool) (rm : RegNum) (va : Word) : BusWrite :=
  if byte then s.byteWrite va (s.readReg .rm rm 8#32) else .word (s.readReg .rm rm 8#32)

/-- R441, R442: what a swap takes from the bus word `w` at `va`: the byte lane, zero-extended, for SWPB, the rotated
word for SWP. -/
def State.swappedValue (s : State) (byte : Bool) (w va : Word) : Word :=
  if byte then (getLane w (laneOf s.control.b (laneBits va))).setWidth 32 else rotateLoaded w va

/-- In the flat memory the read of a swap is done and changes nothing, so only its write is left. -/
theorem exec_swap_flat {s : State} {a : SwpArgs} (flat : Flat s) (byte : Bool)
    (passed : condPassed a.cond s.cpsr = true) (hd : a.rd ≠ 15#4) (hm : a.rm ≠ 15#4) (hn : a.rn ≠ 15#4) :
    let va := s.readReg .base a.rn 8#32
    exec (if byte then .swpb a else .swp a) s =
      s.swapWrite a.rd va (s.swappedWrite byte a.rm va) (s.swappedValue byte (Memory.readWord s.mem va) va) := by
  cases byte with
  | false => exact (exec_swp_eq passed hd hm hn).trans (congrArg _ (flat.readWord _ .swap))
  | true => exact (exec_swpb_eq passed hd hm hn).trans (congrArg _ (flat.readByte _ .swap))

/-- R441: in the flat memory the write of a swap is done, Rd takes the value read and the next instruction follows. -/
theorem Flat.swapWrite {s : State} (flat : Flat s) (rd : RegNum) (va : Word) (w : BusWrite) (loaded : Word) :
    ∃ c d, s.swapWrite rd va w loaded = .next { s with
        regs := s.regs.set (phys s.cpsr.mode rd) loaded, pc := s.pc + 4#32, mem := w.onMemory s.mem va, idc := c,
        draws := d }
      ∧ (s.idcFind va = none → c = s.idc ∧ d = s.draws) := by
  obtain ⟨c, d, written, follows⟩ := flat.memWrite_any va w true false
  refine ⟨c, d, ?_, follows⟩
  unfold State.swapWrite
  rw [written]
  rfl

/-- Settles O34: a swap is its write with the value read before it, and the write reaches its word or its lane alone. -/
theorem swapsComplete : Obligations.SwapsComplete := by
  intro s a byte flat canonical passed hd hm hn va old lane v
  obtain ⟨c, d, swapped, follows⟩ :=
    flat.swapWrite a.rd va (s.swappedWrite byte a.rm va) (s.swappedValue byte old va)
  refine ⟨_, c, d, (exec_swap_flat flat byte passed hd hm hn).trans swapped, follows,
    fun b => read_onMemory_outside, ?_, ?_⟩
  · rintro rfl
    exact Memory.readWord_writeWord va v canonical
  · rintro rfl
    exact ⟨Memory.read_write_same canonical, fun b other => Memory.read_writeLane_other other⟩

end Sys2Proof.Machine
end

section
/-! Exceptions: what the common entry leaves, and the instructions whose meaning is an entry. -/

namespace Sys2Proof.Machine

/-! ### The common entry -/

theorem enter_link (s : State) (m : Mode) (vector ret : Word) (setF : Bool) :
    (s.enter m vector ret setF).regIn m 14#4 = ret := by
  simp [State.regIn]

/-- The entry writes R14 of its own mode and no other register (R511). -/
theorem enter_other_regs (s : State) (m : Mode) (vector ret : Word) (setF : Bool) {k : Fin 30}
    (other : k ≠ phys m 14#4) : (s.enter m vector ret setF).regs[k] = s.regs[k] := by
  simp only [State.enter_regs, Fin.getElem_fin]
  exact Vector.getElem_set_ne _ _ fun same => other (Fin.ext same.symm)

/-- The entry saves the CPSR in the SPSR of its own mode and in no other (R44, R511). -/
theorem enter_spsrOf (s : State) {m : Mode} (privileged : m ≠ .usr) (vector ret : Word) (setF : Bool) (m' : Mode) :
    (s.enter m vector ret setF).spsrOf m' = if m' = m then some (saveCpsr s.cpsr) else s.spsrOf m' :=
  spsrOf_setSpsr (s.setRegIn m 14#4 ret) m' (saveCpsr s.cpsr) privileged

/-- Settles O41: the registers and the SPSRs by the laws of their banks, the rest field by field. -/
theorem exceptionEntry : Obligations.ExceptionEntry := by
  intro s m vector ret setF privileged t
  refine ⟨enter_link s m vector ret setF, fun k => enter_other_regs s m vector ret setF, ?_, fun m' other => ?_, ?_,
    State.enter_pc .., State.enter_prefetch .., State.enter_waiting .., ?_⟩
  · rw [enter_spsrOf s privileged, if_pos rfl]
  · rw [enter_spsrOf s privileged, if_neg other]
  · rw [State.enter_cpsr]
    cases setF <;> simp
  · cases m <;> rfl

/-! ### SWI and the undefined instruction -/

theorem enterSwi_eq (s : State) : s.enterSwi = { s with
    regs := s.regs.set 25 (s.pc + 4#32)
    spsrSvc := saveCpsr s.cpsr
    cpsr := { s.cpsr with mode := .svc, i := true }
    pc := 0x00000008#32
    prefetch := []
    waiting := none } := by
  unfold State.enterSwi State.enter
  rw [Bool.or_false]
  rfl

theorem enterUndefined_eq (s : State) : s.enterUndefined = s.undefinedTaken := by
  unfold State.enterUndefined State.enter
  rw [Bool.or_false]
  rfl

/-- Settles O39: SWI is its entry, under its condition. -/
theorem softwareInterrupt : Obligations.SoftwareInterrupt := fun a s =>
  ⟨fun passed => (whenPassed_of_passed passed).trans (congrArg _ (enterSwi_eq s)), failedConditionSkips (.swi a) s⟩

/-- Settles O40: the undefined instruction is its entry, under its condition; the decoder looks at bits 27:25 and 4
alone. -/
theorem undefinedInstruction : Obligations.UndefinedInstruction := by
  refine ⟨fun a s => ⟨fun passed => ?_, failedConditionSkips (.undefined a) s⟩, fun w class3 bit4 => ?_⟩
  · exact (whenPassed_of_passed passed).trans (congrArg _ (enterUndefined_eq s))
  · refine ⟨UndefArgs.ofWord w, (decodeWord_class3 class3).trans ?_⟩
    rw [if_pos (show wbit w 4 = true from bit4)]

end Sys2Proof.Machine
end

section
/-! Coprocessor 15: what its instructions do in a privileged mode, and which of them trap. -/

namespace Sys2Proof.Machine

section
variable {c : Cond} {s : State} {k : Result}

/-- A transfer with coprocessor 15 is made in a privileged mode and traps in User mode (R484). -/
theorem whenPassed_whenPrivileged (passed : condPassed c s.cpsr = true) (mode : s.cpsr.mode ≠ .usr) :
    whenPassed c s (s.whenPrivileged k) = k :=
  (whenPassed_of_passed passed).trans (if_pos (privileged_of_ne_usr mode))

theorem whenPassed_enterUndefined (passed : condPassed c s.cpsr = true) :
    whenPassed c s (.next s.enterUndefined) = .next s.undefinedTaken :=
  (whenPassed_of_passed passed).trans (congrArg _ (enterUndefined_eq s))

theorem whenPassed_whenPrivileged_user (passed : condPassed c s.cpsr = true) (mode : s.cpsr.mode = .usr) :
    whenPassed c s (s.whenPrivileged k) = .next s.undefinedTaken := by
  rw [State.whenPrivileged, not_privileged_of_usr mode]
  exact whenPassed_enterUndefined passed

end

/-! ### The traps -/

/-- R484, R486: of the general rows, coprocessor 15 answers its registers 0 to 7 in a privileged mode alone. -/
theorem cp15General_eq_false {s : State} {crn : BitVec 4} (trapped : s.cpsr.mode = .usr ∨ 8 ≤ crn.toNat) :
    (s.privileged && decide (crn.toNat < 8)) = false := by
  rcases trapped with user | high
  · rw [not_privileged_of_usr user, Bool.false_and]
  · rw [decide_eq_false (not_lt.2 high), Bool.and_false]

theorem cp15General_eq_true {s : State} {crn : BitVec 4} (mode : s.cpsr.mode ≠ .usr) (low : crn.toNat < 8) :
    (s.privileged && decide (crn.toNat < 8)) = true := by
  rw [privileged_of_ne_usr mode, decide_eq_true low, Bool.and_self]

theorem exec_cp15_traps {s : State} {a : Crt} (passed : condPassed a.cond s.cpsr = true) (cp : a.cp = 15#4)
    (trapped : s.cpsr.mode = .usr ∨ 8 ≤ a.crn.toNat) :
    exec (.mrc a) s = .next s.undefinedTaken ∧ exec (.mcr a) s = .next s.undefinedTaken := by
  have traps {k k' : Result} : whenPassed a.cond s (if a.cp = 15#4 then
      (if s.privileged && decide (a.crn.toNat < 8) then k else .next s.enterUndefined) else k')
      = .next s.undefinedTaken := by
    rw [if_pos cp, cp15General_eq_false trapped]
    exact whenPassed_enterUndefined passed
  exact ⟨traps, traps⟩

/-- Settles O46: each of these instructions comes to the undefined instruction entry. -/
theorem systemCoprocessorTraps : Obligations.SystemCoprocessorTraps := by
  intro i s passed instructions
  have unconditional {k : Result} {cp : BitVec 4} (is15 : cp = 15#4) :
      whenPassed (instrCond i) s (if cp = 15#4 then .next s.enterUndefined else k) = .next s.undefinedTaken := by
    rw [if_pos is15, whenPassed_enterUndefined passed]
  rcases instructions with ⟨a, rfl, cp⟩ | ⟨a, rfl | rfl, cp⟩ | ⟨a, rfl | rfl, cp, trapped⟩ | ⟨user, a, rows⟩
  · exact unconditional cp
  · exact unconditional cp
  · exact unconditional cp
  · exact (exec_cp15_traps passed cp trapped).1
  · exact (exec_cp15_traps passed cp trapped).2
  · rcases rows with rfl | rfl | rfl | rfl | rfl | rfl | rfl | rfl | rfl <;>
      exact whenPassed_whenPrivileged_user passed user

/-! ### Reads -/

/-- R470, R482: the word of a register transfer goes to Rd, or for R15 to the flags. -/
theorem mrcWrite_eq (s : State) (rd : RegNum) (w : Word) : s.mrcWrite rd w = if rd = 15#4
    then { s with
      cpsr := { s.cpsr with n := w.getLsbD 31, z := w.getLsbD 30, c := w.getLsbD 29, v := w.getLsbD 28 }
      pc := s.pc + 4#32 }
    else { s with regs := s.regs.set (phys s.cpsr.mode rd) w, pc := s.pc + 4#32 } := by
  unfold State.mrcWrite
  split <;> rfl

/-- R490: bits 11:8 of the FSR read as 0, bits 7:0 are its domain and status. -/
theorem fsrWord_fields (s : State) : field s.fsrWord 8 4 = 0#4 ∧ field s.fsrWord 0 8 = s.fsr := by
  unfold State.fsrWord
  constructor
  · rw [field_or, field_place_below _ _ _ _ (by decide), field_place_above _ _ _ _ (by decide), BitVec.zero_or]
  · rw [field_or, field_place_below _ _ _ _ (by decide), field_place_same _ _ (by decide), BitVec.zero_or]

/-- Settles O47: each of the four reads is the transfer of its own word. -/
theorem systemCoprocessorReads : Obligations.SystemCoprocessorReads := by
  intro s i rd mode passed reads
  have row {w : Word} : whenPassed (instrCond i) s (s.whenPrivileged (.next (s.mrcWrite rd w))) = _ :=
    (whenPassed_whenPrivileged passed mode).trans (congrArg _ (mrcWrite_eq s rd w))
  rcases reads with ⟨a, rfl, rfl | rfl | rfl⟩ | ⟨a, rfl, rfl, cp, low⟩
  · exact ⟨Config.idValue, fun _ => rfl, nofun, nofun, row⟩
  · exact ⟨s.fsrWord, nofun, fun _ => fsrWord_fields s, nofun, row⟩
  · exact ⟨s.far, nofun, nofun, fun _ => rfl, row⟩
  · refine ⟨Config.free .cp15Invalid s.draws, nofun, nofun, nofun, (whenPassed_of_passed passed).trans ?_⟩
    rw [if_pos cp, if_pos (cp15General_eq_true mode low), mrcWrite_eq]

/-! ### Writes -/

/-- R139: the MMU off and the cache or the write buffer on. -/
theorem controlOfWord_invalid_iff (w : Word) : (controlOfWord w).invalid = true ↔
    w.getLsbD 0 = false ∧ (w.getLsbD 2 = true ∨ w.getLsbD 3 = true) := by
  rw [and_comm, ← Bool.or_eq_true, ← Bool.not_eq_true', ← Bool.and_eq_true]
  rfl

/-- R81: P or D at 0. -/
theorem controlOfWord_space26_iff (w : Word) : (controlOfWord w).space26 = true ↔
    w.getLsbD 4 = false ∨ w.getLsbD 5 = false := by
  rw [← Bool.not_eq_true', ← Bool.not_eq_true', ← Bool.or_eq_true]
  rfl

section
variable {s : State} {c : Control}

theorem controlRefusal_of_invalid (invalid : c.invalid = true) : s.controlRefusal c = some .invalidCombination :=
  if_pos invalid

theorem controlRefusal_of_space26 (valid : ¬c.invalid = true) (narrow : c.space26 = true)
    (policy : s.cfg26 = .refuse) : s.controlRefusal c = some .cfg26 := by
  rw [State.controlRefusal, if_neg valid, narrow, policy]
  rfl

theorem controlRefusal_eq_none (valid : ¬c.invalid = true) (wide : s.cfg26 = .same ∨ ¬c.space26 = true) :
    s.controlRefusal c = none := by
  rw [State.controlRefusal, if_neg valid]
  rcases wide with same | wide
  · rw [same, decide_eq_false (by decide), Bool.and_false]
    rfl
  · rw [Bool.eq_false_iff.2 wide]
    rfl

end

/-- Settles O48: the combination is tested before `CFG26`, and what neither refuses is written as a whole. -/
theorem controlRegisterWrite : Obligations.ControlRegisterWrite := by
  intro a s mode passed w
  have write : exec (.mcrControl a) s = unlessRefused (s.controlRefusal (controlOfWord w))
      (.next { s with control := controlOfWord w, pc := s.pc + 4#32 }) := whenPassed_whenPrivileged passed mode
  refine ⟨fun combination => ?_, fun off on => ?_⟩
  · have valid : ¬(controlOfWord w).invalid = true := by
      rw [controlOfWord_invalid_iff]
      grind
    refine ⟨fun wide => ?_, fun policy narrow => ?_⟩
    · have allowed : s.controlRefusal (controlOfWord w) = none := by
        refine controlRefusal_eq_none valid (wide.imp_right fun ⟨p, d⟩ => ?_)
        rw [controlOfWord_space26_iff, p, d]
        decide
      rw [write, allowed]
      rfl
    · rw [write, controlRefusal_of_space26 valid ((controlOfWord_space26_iff w).2 narrow) policy]
      rfl
  · rw [write, controlRefusal_of_invalid ((controlOfWord_invalid_iff w).2 ⟨off, on⟩)]
    rfl

/-- Settles O49: the two ends of a transfer with coprocessor 15, by the mode. -/
theorem translationTableBaseWrite : Obligations.TranslationTableBaseWrite := fun _ _ passed =>
  ⟨whenPassed_whenPrivileged passed, whenPassed_whenPrivileged_user passed⟩

/-- Settles O50: the transfer, and the two bits that a domain's access is read from. -/
theorem domainAccessWrite : Obligations.DomainAccessWrite := fun a s passed =>
  ⟨whenPassed_whenPrivileged passed, whenPassed_whenPrivileged_user passed, fun d k => by
    simp [State.domainAccess, k.isLt]⟩

/-- R176, R493: a purge drops from each slot of the TLB the entry that covers the address, and no other. -/
theorem tlbPurge_slot (s : State) (va : Word) (k : Fin 32) :
    (s.tlbPurge va).tlb[k] = s.tlb[k].filter fun e => !e.covers va := by
  rw [Fin.getElem_fin, Fin.getElem_fin]
  exact Vector.getElem_map _ _

/-- Settles O51: the three operations touch the TLB or the cache alone, and registers 0 and 4 take no write. -/
theorem systemCoprocessorOperations : Obligations.SystemCoprocessorOperations := by
  intro s mode
  refine ⟨fun a passed => ⟨whenPassed_whenPrivileged passed mode, whenPassed_whenPrivileged passed mode, _,
    whenPassed_whenPrivileged passed mode, fun k => ?_⟩, fun a passed cp unwritten => ?_⟩
  · rw [tlbPurge_slot]
    refine ⟨fun e held covers => ?_, fun e held apart => ?_, fun empty => ?_⟩
    · rw [held, Option.filter_some, covers]
      rfl
    · rw [held, Option.filter_some, apart]
      rfl
    · rw [empty, Option.filter_none]
  · have low : a.crn.toNat < 8 := by rcases unwritten with e | e <;> rw [e] <;> decide
    refine (whenPassed_of_passed passed).trans ?_
    rw [if_pos cp, if_pos (cp15General_eq_true mode low)]
    rfl

end Sys2Proof.Machine
end

section
/-! One step: what the outside drives at its boundary, the interrupts and the reset that are taken there, the fetch, and
the word that runs. -/

namespace Sys2Proof.Machine

/-! ### The boundary -/

/-- The state once the inputs of the boundary are taken and the words of other bus masters have landed (R599). -/
def State.atBoundary (s : State) : State := { s with inputs := s.inputs.tail, mem := applyDma s.nextInputs.dma s.mem }

/-- No reset and no interrupt is taken at the boundary (R544). -/
structure Undisturbed (s : State) : Prop where
  noReset : s.nextInputs.reset = false
  fiqMasked : s.nextInputs.fiq = true → s.cpsr.f = true
  irqMasked : s.nextInputs.irq = true → s.cpsr.i = true

/-- An interrupt line that is masked where it is LOW takes nothing. -/
theorem line_masked {line disable : Bool} (masked : line = true → disable = true) : (line && !disable) = false := by
  cases line with
  | false => rfl
  | true => rw [masked rfl]; rfl

/-- The order of R544: reset, FIQ, IRQ, and then the write buffer drains and the instruction runs. -/
theorem step_eq (s : State) : step s = if s.nextInputs.reset then .next s.atBoundary.boundaryReset
    else if s.nextInputs.fiq && !s.cpsr.f then .next s.atBoundary.enterFiq.bump
    else if s.nextInputs.irq && !s.cpsr.i then .next s.atBoundary.enterIrq.bump
    else match s.atBoundary.drainSome with
      | .done _ t => t.runInstruction
      | .abort _ t => t.runInstruction
      | .halt r => r := rfl

theorem step_undisturbed {s t : State} (h : Undisturbed s) (drained : s.atBoundary.drainSome = .done () t) :
    step s = t.runInstruction := by
  rw [step_eq, h.noReset, line_masked h.fiqMasked, line_masked h.irqMasked, drained]
  rfl

theorem undisturbed_of_idle {s : State} (h : s.inputs = []) : Undisturbed s := by
  have idle : s.nextInputs = Inputs.idle := by rw [State.nextInputs, h]
  exact ⟨by rw [idle]; rfl, by rw [idle]; nofun, by rw [idle]; nofun⟩

/-- An exhausted list of inputs changes nothing (log entry 10). -/
theorem atBoundary_of_idle {s : State} (h : s.inputs = []) : s.atBoundary = s := by
  cases s
  cases h
  rfl

/-! ### Interrupts -/

theorem enterFiq_eq (s : State) : s.enterFiq = { s with
    regs := s.regs.set 21 (s.pc + 4#32)
    spsrFiq := saveCpsr s.cpsr
    cpsr := { s.cpsr with mode := .fiq, i := true, f := true }
    pc := 0x0000001C#32
    prefetch := []
    waiting := none } := by
  unfold State.enterFiq State.enter
  rw [Bool.or_true]
  rfl

theorem enterIrq_eq (s : State) : s.enterIrq = { s with
    regs := s.regs.set 23 (s.pc + 4#32)
    spsrIrq := saveCpsr s.cpsr
    cpsr := { s.cpsr with mode := .irq, i := true }
    pc := 0x00000018#32
    prefetch := []
    waiting := none } := by
  unfold State.enterIrq State.enter
  rw [Bool.or_false]
  rfl

/-- Settles O7: FIQ is tested before IRQ, and each entry is taken in the state at the boundary. -/
theorem interruptsAreTaken : Obligations.InterruptsAreTaken := by
  intro s noReset
  refine ⟨fun fiq enabled => ?_, fun irq enabled notFiq => ?_⟩
  · rw [step_eq, noReset, fiq, enabled, enterFiq_eq]
    rfl
  · have masked : s.nextInputs.fiq = true → s.cpsr.f = true := fun low =>
      notFiq.resolve_left (by rw [low]; decide)
    rw [step_eq, noReset, line_masked masked, irq, enabled, enterIrq_eq]
    rfl

/-! ### Reset -/

/-- Whether the `k`-th buffered write is in memory when a reset at the boundary finds it there (R571; log entry 31). -/
def State.resetLands (s : State) (k : Nat) (e : WbEntry) : Bool :=
  !(s.aborts e.addr && !wbit (Config.free (.resetAbort k) s.draws) 0)

/-- The writes that a reset finds performed are the oldest ones, each of them where it lands. -/
theorem resetDrain_eq {lands : Nat → Bool} (n k : Nat) {s : State}
    (own : ∀ j e, s.writeBuffer[j]? = some e → lands (k + j) = s.resetLands (k + j) e) :
    s.resetDrain n k = { s with
      mem := settleWhere lands k (s.writeBuffer.take n) s.mem, writeBuffer := s.writeBuffer.drop n } := by
  induction n generalizing k s with
  | zero => rfl
  | succ n ih =>
    unfold State.resetDrain
    split
    case h_1 buffer =>
      cases s
      cases buffer
      rfl
    case h_2 e rest buffer =>
      have first : lands k = s.resetLands k e := own 0 e (by rw [buffer]; rfl)
      rw [ih (k + 1) fun j e' held => by
        rw [Nat.add_right_comm]
        exact own (j + 1) e' (by rw [buffer]; exact held)]
      simp only [buffer, List.take_succ_cons, List.drop_succ_cons, settleWhere, first, State.resetLands]
      cases s.aborts e.addr && !wbit (Config.free (.resetAbort k) s.draws) 0 <;> rfl

/-- R571: a reset at the boundary leaves the memory of some number of buffered writes, and no trace of the others. -/
theorem boundaryReset_eq (s : State) : ∃ (n : Nat) (lands : Nat → Bool),
    s.boundaryReset = State.warmReset { s with
      mem := settleWhere lands 0 (s.writeBuffer.take n) s.mem, writeBuffer := s.writeBuffer.drop n }
    ∧ ∀ (k : Nat) (e : WbEntry), s.writeBuffer[k]? = some e → s.aborts e.addr = false → lands k = true := by
  refine ⟨(Config.free .resetDrain s.draws).toNat % (s.writeBuffer.length + 1),
    fun k => (s.writeBuffer[k]?).all (s.resetLands k), ?_, fun k e held accepted => ?_⟩
  · rw [State.boundaryReset, resetDrain_eq _ 0 fun j e held => ?_]
    simp only [Nat.zero_add, held, Option.all_some]
  · simp only [held, Option.all_some, State.resetLands, accepted, Bool.false_and, Bool.not_false]

theorem readTransfer_reset {s : State} (h : s.busAnswer.reset = true) (pa : Word) :
    ∃ u : State, s.readTransfer pa = .halt (.next u.warmReset) ∧ u.mem = applyDma s.busAnswer.dma s.mem := by
  unfold State.readTransfer
  dsimp only
  rw [if_pos h]
  exact ⟨_, rfl, rfl⟩

/-- R571: the write that a reset cuts off may have changed memory; under LOCK the words of other bus masters come after
it (R77; log entry 33). -/
theorem writeTransfer_reset {s : State} (h : s.busAnswer.reset = true) (pa : Word) (w : BusWrite) (locked : Bool) :
    ∃ u : State, s.writeTransfer pa w locked = .halt (.next u.warmReset)
      ∧ (u.mem = applyDma s.busAnswer.dma s.mem
        ∨ u.mem = if locked then applyDma s.busAnswer.dma (w.onMemory s.mem pa)
          else w.onMemory (applyDma s.busAnswer.dma s.mem) pa) := by
  unfold State.writeTransfer
  dsimp only
  rw [if_pos h]
  refine ⟨_, rfl, ?_⟩
  cases locked <;> simp only [Bool.false_eq_true, if_false, if_true, State.otherMasters] <;> split <;> simp

/-- Settles O8: at the boundary and inside a transfer it is the same reset, of a state whose memory the drained writes or
the transfer have left. -/
theorem resetForces : Obligations.ResetForces := by
  refine ⟨fun s reset => ?_, fun s pa reset => ⟨?_, fun w => ?_, fun w => ?_⟩⟩
  · obtain ⟨n, lands, drained, accepted⟩ := boundaryReset_eq s.atBoundary
    refine ⟨_, (step_eq s).trans (if_pos reset), ?_⟩
    rw [drained]
    exact ⟨warmReset_forced _, State.warmReset_hazard _, State.warmReset_inputs _, State.warmReset_abortRanges _,
      State.warmReset_busTape _, State.warmReset_coprocTape _, State.warmReset_coprocSent _, n, lands, accepted,
      State.warmReset_mem _⟩
  · obtain ⟨u, ends, left⟩ := readTransfer_reset reset pa
    exact ⟨_, ends, warmReset_forced u, (State.warmReset_mem u).trans left⟩
  · obtain ⟨u, ends, left⟩ := writeTransfer_reset reset pa w false
    exact ⟨_, ends, warmReset_forced u, by rw [State.warmReset_mem]; exact left⟩
  · obtain ⟨u, ends, left⟩ := writeTransfer_reset reset pa w true
    exact ⟨_, ends, warmReset_forced u, by rw [State.warmReset_mem]; exact left⟩

/-! ### The fetch -/

theorem fetchAt_frame {s t : State} {va : Word} {f : Fetched} (h : s.fetchAt va = .done f t) : AccessFrame s t := by
  have access := readBusWord_obeys s va .fetch
  unfold State.fetchAt at h
  split at h
  case h_1 w u e => cases h; exact (access.done e).frame
  case h_2 g u e => cases h; exact (access.abort e).frame
  case h_3 => cases h

/-- With no word prefetched for it a slot is fetched now (R75). -/
theorem fetchSlot_fetched {s : State} {k : Nat} (h : s.prefetch[k]? = none) :
    s.fetchSlot k = s.fetchAt (s.pc + BitVec.ofNat 32 (4 * k)) := by
  unfold State.fetchSlot
  simp only [h]

theorem fetchSlot_frame {s t : State} {k : Nat} {f : Fetched} (h : s.fetchSlot k = .done f t) : AccessFrame s t := by
  cases slot : s.prefetch[k]? with
  | none => exact fetchAt_frame (fetchSlot_fetched slot ▸ h)
  | some old =>
    obtain ⟨g, u, fetched, -, -, frame, -⟩ := prefetchedWordsRun s k old slot
    cases fetched.symm.trans h
    exact frame

/-- The fetches of an instruction leave the frame of three accesses and the two words after the first (R75). -/
theorem fetchStage_frame {s t : State} {f : Fetched} (h : s.fetchStage = .done f t) :
    ∃ u p, AccessFrame s u ∧ t = { u with prefetch := p } := by
  unfold State.fetchStage at h
  obtain ⟨f0, s0, slot0, h⟩ := Access.andThen_eq_done.1 h
  obtain ⟨f1, s1, slot1, h⟩ := Access.andThen_eq_done.1 h
  obtain ⟨f2, s2, slot2, h⟩ := Access.andThen_eq_done.1 h
  cases h
  exact ⟨s2, _, (fetchSlot_frame slot0).trans ((fetchSlot_frame slot1).trans (fetchSlot_frame slot2)), rfl⟩

/-- What a fetch from the flat memory brings: the bus word, or the mark of its abort (R76). -/
def State.flatFetched (s : State) (va : Word) : Fetched :=
  ⟨if s.aborts va then none else some (Memory.readWord s.mem va), s.control, s.privileged⟩

theorem FlatButAborts.fetchAt {s : State} (h : FlatButAborts s) (va : Word) :
    s.fetchAt va = .done (s.flatFetched va) s := by
  have read : s.readBusWord va .fetch =
      if s.aborts va then .abort .externalFlat s else .done (Memory.readWord s.mem va) s := by
    rw [← readWord_aligned (misaligned_eq_false_iff.2 (Or.inl h.alignOff)), h.readWord]
  unfold State.fetchAt State.flatFetched
  rw [read]
  cases s.aborts va <;> rfl

/-- With nothing prefetched the fetches read three words of the flat memory and change nothing else (R75, R112). -/
theorem FlatButAborts.fetchStage {s : State} (h : FlatButAborts s) (nothing : s.prefetch = []) :
    s.fetchStage = .done (s.flatFetched s.pc)
      { s with prefetch := [s.flatFetched (s.pc + 4#32), s.flatFetched (s.pc + 8#32)] } := by
  have slot (k : Nat) : s.fetchSlot k = .done (s.flatFetched (s.pc + BitVec.ofNat 32 (4 * k))) s := by
    rw [fetchSlot_fetched (by rw [nothing]; rfl), h.fetchAt]
  unfold State.fetchStage
  simp only [slot, Access.andThen]
  rw [show s.pc + BitVec.ofNat 32 (4 * 0) = s.pc from BitVec.add_zero s.pc]

/-! ### The word that runs -/

theorem runInstruction_waiting {s : State} {w : Word} (h : s.waiting = some w) :
    s.runInstruction = State.runWord { s with waiting := none } w := by
  unfold State.runInstruction
  rw [h]

theorem runInstruction_fetched {s t : State} {f : Fetched} (h : s.waiting = none) (fetched : s.fetchStage = .done f t) :
    s.runInstruction = t.runFetched f := by
  unfold State.runInstruction
  rw [h, fetched]

theorem runFetched_word {s : State} {f : Fetched} {w : Word} (h : f.word = some w) : s.runFetched f = s.runWord w := by
  unfold State.runFetched
  rw [h]

theorem runFetched_abort {s : State} {f : Fetched} (h : f.word = none) :
    s.runFetched f = .next s.enterPrefetchAbort.bump := by
  unfold State.runFetched
  rw [h]

theorem runWord_instruction {s : State} {w : Word} {i : Instr} (h : decodeWord w = .ok i) :
    s.runWord w = finish (exec i s) := by
  unfold State.runWord
  rw [h]

theorem runWord_rejected {s : State} {w : Word} {r : Reject} (h : decodeWord w = .error r) :
    s.runWord w = if condPassed (condOf w) s.cpsr then .refused (.unallocated r)
      else .next s.advance.afterInstruction := by
  unfold State.runWord
  rw [h]
  rfl

/-- A step that comes to an instruction ends as the instruction does. -/
theorem step_of_finish {s u : State} {i : Instr} (h : step s = finish (exec i u)) :
    (∀ t, exec i u = .next t → step s = .next t.afterInstruction)
    ∧ ∀ r, exec i u = .refused r → step s = .refused r :=
  ⟨fun t e => by rw [h, e]; rfl, fun r e => by rw [h, e]; rfl⟩

/-- Where nothing waits the step runs what it fetches. -/
theorem step_fetched {s s2 s3 : State} {f : Fetched} (h : Undisturbed s)
    (drained : s.atBoundary.drainSome = .done () s2) (ready : s.waiting = none) (fetched : s2.fetchStage = .done f s3) :
    step s = s3.runFetched f := by
  have still : s2.waiting = none := (((drainSome_obeys _).done drained).frame.waiting).trans ready
  rw [step_undisturbed h drained, runInstruction_fetched still fetched]

/-- An instruction that waits for its coprocessor is run again (R462). -/
theorem step_waiting {s s2 : State} {w : Word} (h : Undisturbed s)
    (drained : s.atBoundary.drainSome = .done () s2) (waits : s.waiting = some w) :
    step s = State.runWord { s2 with waiting := none } w := by
  have still : s2.waiting = some w := (((drainSome_obeys _).done drained).frame.waiting).trans waits
  rw [step_undisturbed h drained, runInstruction_waiting still]

/-- A step from the flat memory with no input, nothing prefetched and nothing waiting. -/
theorem FlatButAborts.step {s : State} (h : FlatButAborts s) (nothing : s.prefetch = []) (ready : s.waiting = none)
    (idle : s.inputs = []) : step s = State.runFetched
      { s with prefetch := [s.flatFetched (s.pc + 4#32), s.flatFetched (s.pc + 8#32)] } (s.flatFetched s.pc) := by
  refine step_fetched (undisturbed_of_idle idle) ?_ ready (h.fetchStage nothing)
  rw [atBoundary_of_idle idle]
  exact drainSome_nil h.nothingBuffered

theorem Flat.flatFetched {s : State} (h : Flat s) (va : Word) :
    s.flatFetched va = ⟨some (Memory.readWord s.mem va), s.control, s.privileged⟩ := by
  unfold State.flatFetched
  rw [h.aborts]
  rfl

/-- Settles O5: the step comes to the word that was fetched or that waits, and the word to its instruction. -/
theorem stepRunsTheInstruction : Obligations.StepRunsTheInstruction := by
  refine ⟨fun s s2 noReset fiq irq drained => ⟨fun s3 f w ready fetched word => ⟨fun i decoded => ?_, fun r rejected => ?_⟩,
    fun w i waits decoded => ?_⟩, fun s i flat nothing ready idle decoded => ?_⟩
  · exact step_of_finish ((step_fetched ⟨noReset, fiq, irq⟩ drained ready fetched).trans
      ((runFetched_word word).trans (runWord_instruction decoded)))
  · exact (step_fetched ⟨noReset, fiq, irq⟩ drained ready fetched).trans
      ((runFetched_word word).trans (runWord_rejected rejected))
  · exact step_of_finish ((step_waiting ⟨noReset, fiq, irq⟩ drained waits).trans (runWord_instruction decoded))
  · have fetched := flat.flatFetched
    have runs := FlatButAborts.step (Flat.butAborts { flat with noAborts := rfl }) nothing ready idle
    rw [fetched, fetched, fetched] at runs
    exact step_of_finish (runs.trans ((runFetched_word rfl).trans (runWord_instruction decoded)))

/-! ### The prefetch abort -/

theorem enterPrefetchAbort_eq (s : State) : s.enterPrefetchAbort = { s with
    regs := s.regs.set 27 (s.pc + 4#32)
    spsrAbt := saveCpsr s.cpsr
    cpsr := { s.cpsr with mode := .abt, i := true }
    pc := 0x0000000C#32
    prefetch := []
    waiting := none } := by
  unfold State.enterPrefetchAbort State.enter
  rw [Bool.or_false]
  rfl

/-- R76, R524: an abort mark that would run is the prefetch abort. -/
theorem runFetched_abort_eq {s : State} {f : Fetched} (h : f.word = none) : s.runFetched f = .next { s with
    regs := s.regs.set 27 (s.pc + 4#32)
    spsrAbt := saveCpsr s.cpsr
    cpsr := { s.cpsr with mode := .abt, i := true }
    pc := 0x0000000C#32
    prefetch := []
    waiting := none
    draws := s.draws + 1 } := by
  rw [runFetched_abort h, enterPrefetchAbort_eq]
  rfl

/-- Settles O9: the fetch changes no register and neither FSR nor FAR, and its abort mark runs as the entry. -/
theorem prefetchAbort : Obligations.PrefetchAbort := by
  refine ⟨fun s s2 s3 f noReset fiq irq drained ready fetched mark => ?_, fun s flat nothing ready idle aborts => ?_⟩
  · obtain ⟨u, p, fetch, rfl⟩ := fetchStage_frame fetched
    have frame := ((drainSome_obeys _).done drained).frame.trans fetch
    exact ⟨frame.fsr, frame.far, frame.pc, frame.cpsr, frame.regs,
      (step_fetched ⟨noReset, fiq, irq⟩ drained ready fetched).trans (runFetched_abort_eq mark)⟩
  · have mark : (s.flatFetched s.pc).word = none := if_pos aborts
    exact (flat.butAborts.step nothing ready idle).trans (runFetched_abort_eq mark)

end Sys2Proof.Machine
end

section
/-! Coprocessors 0 to 14: each answer to an instruction that is offered, and the words of LDC and STC with the memory system
as it is after reset. -/

namespace Sys2Proof.Machine

/-! ### The handshake -/

section
variable {s : State} {w : Word} {accepted : Nat → List Word → State → Result}

theorem handshake_refused (h : s.coprocTape = [] ∨ s.coprocTape.head? = some .refuse) :
    s.handshake w accepted = .next s.popAnswer.undefinedTaken := by
  have answer : s.nextAnswer = .refuse := by
    unfold State.nextAnswer
    cases tape : s.coprocTape with
    | nil => rfl
    | cons a rest =>
      rw [tape] at h
      exact Option.some.inj (h.resolve_left (List.cons_ne_nil a rest))
  rw [State.handshake, answer, ← enterUndefined_eq]

theorem nextAnswer_of_head {a : CoprocAnswer} (h : s.coprocTape.head? = some a) : s.nextAnswer = a := by
  unfold State.nextAnswer
  cases tape : s.coprocTape with
  | nil => rw [tape] at h; cases h
  | cons b rest => rw [tape] at h; exact Option.some.inj h

theorem handshake_busy {rest : List CoprocAnswer} (tape : s.coprocTape = .busy :: rest) :
    s.handshake w accepted = .next { s with coprocTape := rest, waiting := some w } := by
  rw [State.handshake, nextAnswer_of_head (by rw [tape]; rfl), State.popAnswer, tape]
  rfl

theorem handshake_neverReady (h : s.coprocTape.head? = some .neverReady) :
    s.handshake w accepted = .next { s with waiting := some w } := by
  rw [State.handshake, nextAnswer_of_head h]
  rfl

theorem handshake_accept {n : Nat} {data : List Word} {rest : List CoprocAnswer}
    (tape : s.coprocTape = .accept n data :: rest) :
    s.handshake w accepted = accepted n data { s with coprocTape := rest } := by
  rw [State.handshake, nextAnswer_of_head (by rw [tape]; rfl), State.popAnswer, tape]
  rfl

end

/-! ### The instructions that are offered -/

/-- The instructions that are offered to coprocessors 0 to 14 (R460, R465). -/
def OfferedToCoproc (i : Instr) : Prop :=
  (∃ a, i = .cdp a ∧ a.cp ≠ 15#4) ∨ (∃ a, i = .mrc a ∧ a.cp ≠ 15#4) ∨ (∃ a, i = .mcr a ∧ a.cp ≠ 15#4)
    ∨ (∃ a, (i = .ldc a ∨ i = .stc a) ∧ a.cp ≠ 15#4 ∧ (a.rn = 15#4 → a.w = false))

theorem cdtRefusal_eq_none {a : Cdt} (base : a.rn = 15#4 → a.w = false) : cdtRefusal a = none := by
  refine if_neg fun named => ?_
  simp only [Bool.and_eq_true, decide_eq_true_eq] at named
  exact Bool.false_ne_true ((base named.1).symm.trans named.2)

/-- LDC and STC of coprocessors 0 to 14 whose form is not refused do what they stand for. -/
theorem whenPassed_cdt {s : State} {a : Cdt} {k : Result} (passed : condPassed a.cond s.cpsr = true) (cp : a.cp ≠ 15#4)
    (base : a.rn = 15#4 → a.w = false) :
    whenPassed a.cond s (if a.cp = 15#4 then .next s.enterUndefined else unlessRefused (cdtRefusal a) k) = k := by
  rw [if_neg cp]
  exact whenPassed_unlessRefused passed (cdtRefusal_eq_none base)

/-- Each of them begins with the handshake, and that with its own word (R461, R462). -/
theorem exec_offered {i : Instr} (offered : OfferedToCoproc i) {s : State}
    (passed : condPassed (instrCond i) s.cpsr = true) : ∃ accepted, exec i s = s.handshake (encode i) accepted := by
  rcases offered with ⟨a, rfl, cp⟩ | ⟨a, rfl, cp⟩ | ⟨a, rfl, cp⟩ | ⟨a, rfl | rfl, cp, base⟩
  · exact ⟨_, (whenPassed_of_passed passed).trans (if_neg cp)⟩
  · exact ⟨_, (whenPassed_of_passed passed).trans (if_neg cp)⟩
  · exact ⟨_, (whenPassed_of_passed passed).trans (if_neg cp)⟩
  · exact ⟨_, whenPassed_cdt passed cp base⟩
  · exact ⟨_, whenPassed_cdt passed cp base⟩

theorem exec_neverReady {i : Instr} (offered : OfferedToCoproc i) {s : State}
    (passed : condPassed (instrCond i) s.cpsr = true) (h : s.coprocTape.head? = some .neverReady) :
    exec i s = .next { s with waiting := some (encode i) } := by
  obtain ⟨accepted, shakes⟩ := exec_offered offered passed
  rw [shakes, handshake_neverReady h]

/-- R462: an instruction that is offered again and not answered waits as before. -/
theorem step_neverReady {i : Instr} (offered : OfferedToCoproc i) {s : State} (quiet : Undisturbed s)
    (passed : condPassed (instrCond i) s.cpsr = true) (h : s.coprocTape.head? = some .neverReady)
    (waits : s.waiting = some (encode i)) (decoded : decodeWord (encode i) = .ok i) (buffer : s.writeBuffer = []) :
    step s = .next { s.atBoundary with draws := s.draws + 1 } := by
  have drained : s.atBoundary.drainSome = .done () s.atBoundary := drainSome_nil buffer
  have again : exec i { s.atBoundary with waiting := none } = .next { s.atBoundary with waiting := s.waiting } := by
    rw [waits]
    exact exec_neverReady (s := { s.atBoundary with waiting := none }) offered passed h
  have still : s.waiting.isSome = true := by rw [waits]; rfl
  rw [step_waiting quiet drained waits, runWord_instruction decoded, again, finish, State.afterInstruction]
  simp only [still, if_true]
  rfl

/-- Settles O43: each answer is a case of the handshake. -/
theorem coprocessorsThatDoNotAccept : Obligations.CoprocessorsThatDoNotAccept := by
  refine ⟨fun i s passed answer offered => ?_, fun i s rest passed tape offered => ?_,
    fun i s passed answer offered => ⟨?_, fun waits decoded buffer noReset fiq irq => ?_⟩⟩
  · obtain ⟨accepted, shakes⟩ := exec_offered offered passed
    exact shakes.trans (handshake_refused answer)
  · obtain ⟨accepted, shakes⟩ := exec_offered offered passed
    exact shakes.trans (handshake_busy tape)
  · exact exec_neverReady offered passed answer
  · exact step_neverReady offered ⟨noReset, fiq, irq⟩ passed answer waits decoded buffer

/-! ### CDP, MRC and MCR -/

/-- R460: a word that the answer lists is the word that is supplied. -/
theorem suppliedWord_of_listed {data : List Word} {k : Nat} {v : Word} (s : State) (h : data[k]? = some v) :
    s.suppliedWord data k = v := by
  unfold State.suppliedWord
  rw [h]

/-- R470: an accepted MRC takes the first word of the answer. -/
theorem exec_mrc_accept {s : State} {a : Crt} {n : Nat} {data : List Word} {rest : List CoprocAnswer}
    (tape : s.coprocTape = .accept n data :: rest) (passed : condPassed a.cond s.cpsr = true) (cp : a.cp ≠ 15#4) :
    exec (.mrc a) s = .next (State.mrcWrite { s with
      coprocTape := rest, coprocSent := ⟨encode (.mrc a), s.privileged, []⟩ :: s.coprocSent } a.rd
      (s.suppliedWord data 0)) :=
  (whenPassed_of_passed passed).trans ((if_neg cp).trans (handshake_accept tape))

/-- Settles O44: each is its handshake, whose acceptance sends the words and ends the instruction. -/
theorem coprocessorOperations : Obligations.CoprocessorOperations := by
  intro s n data rest tape
  refine ⟨fun a passed cp => ?_, fun a passed cp => ?_, fun a passed cp => ?_⟩
  · exact (whenPassed_of_passed passed).trans ((if_neg cp).trans (handshake_accept tape))
  · exact (whenPassed_of_passed passed).trans ((if_neg cp).trans (handshake_accept tape))
  · have transfer := exec_mrc_accept tape passed cp
    rw [mrcWrite_eq] at transfer
    refine ⟨s.suppliedWord data 0, fun v first => suppliedWord_of_listed s (List.head?_eq_getElem? ▸ first),
      fun rd => ?_, fun pc => ?_⟩
    · exact transfer.trans (congrArg _ (if_neg rd))
    · exact transfer.trans (congrArg _ (if_pos pc))

/-! ### LDC and STC -/

/-- The state in which an accepted LDC or STC makes its transfers: the answer is used up, and the coprocessor was given the
instruction with no data yet (R460). -/
def State.givenToCoproc (s : State) (i : Instr) (rest : List CoprocAnswer) : State :=
  { s with coprocTape := rest, coprocSent := ⟨encode i, s.privileged, []⟩ :: s.coprocSent }

/-- Counted from the second word of a run, the `k`-th word is the `k + 1`-th of the run. -/
theorem nextWord_add (addr : Word) (k : Nat) :
    addr + 4#32 + BitVec.ofNat 32 (4 * k) = addr + BitVec.ofNat 32 (4 * (k + 1)) := by
  rw [BitVec.add_assoc, Nat.mul_succ, Nat.add_comm, BitVec.ofNat_add]

theorem firstWord_add (addr : Word) : addr + BitVec.ofNat 32 (4 * 0) = addr := BitVec.add_zero addr

section
variable {s t : State} {a : Cdt} {n : Nat} {data : List Word} {rest : List CoprocAnswer}
  (passed : condPassed a.cond s.cpsr = true) (cp : a.cp ≠ 15#4) (base : a.rn = 15#4 → a.w = false)
  (tape : s.coprocTape = .accept n data :: rest)
include passed cp base tape

/-- An LDC whose words are all sent ends, once it has read one more word that does not abort (R468). -/
theorem exec_ldc_sent (flat : Flat t)
    (run : ldcTransfers (max 1 n) (s.cdtAddr a).addr (s.givenToCoproc (.ldc a) rest) = .done none t) :
    exec (.ldc a) s = t.endCdt a.rn (s.cdtAddr a) none := by
  have transfers : ldcTransfers (wordCount n) (State.cdtAddr { s with coprocTape := rest } a).addr
      (State.sendCoproc { s with coprocTape := rest } (encode (.ldc a)) []) = .done none t := run
  have extra (addr : Word) : t.ldcExtraRead addr = .done none t := by
    unfold State.ldcExtraRead
    rw [flat.readWord]
  refine (whenPassed_cdt passed cp base).trans ((handshake_accept tape).trans ?_)
  dsimp only
  rw [transfers]
  dsimp only
  rw [extra]
  rfl

theorem exec_ldc_aborted {abort : MemFault × Word}
    (run : ldcTransfers (max 1 n) (s.cdtAddr a).addr (s.givenToCoproc (.ldc a) rest) = .done (some abort) t) :
    exec (.ldc a) s = t.endCdt a.rn (s.cdtAddr a) (some abort) := by
  have transfers : ldcTransfers (wordCount n) (State.cdtAddr { s with coprocTape := rest } a).addr
      (State.sendCoproc { s with coprocTape := rest } (encode (.ldc a)) []) = .done (some abort) t := run
  refine (whenPassed_cdt passed cp base).trans ((handshake_accept tape).trans ?_)
  dsimp only
  rw [transfers]
  rfl

theorem exec_stc_stored {abort : Option (MemFault × Word)}
    (run : stcTransfers (s.suppliedWord data) (max 1 n) 0 (s.cdtAddr a).addr (s.givenToCoproc (.stc a) rest)
      = .done abort t) :
    exec (.stc a) s = t.endCdt a.rn (s.cdtAddr a) abort := by
  have transfers : stcTransfers (State.suppliedWord { s with coprocTape := rest } data) (wordCount n) 0
      (State.cdtAddr { s with coprocTape := rest } a).addr
      (State.sendCoproc { s with coprocTape := rest } (encode (.stc a)) []) = .done abort t := run
  refine (whenPassed_cdt passed cp base).trans ((handshake_accept tape).trans ?_)
  dsimp only
  rw [transfers]
  rfl

end

/-- In the flat memory the words of an LDC are those of memory, in ascending order (R466). -/
theorem ldcTransfers_flat (n : Nat) (addr : Word) {s : State} (flat : Flat s) {e : CoprocEvent}
    {before : List CoprocEvent} (given : s.coprocSent = e :: before) :
    ldcTransfers n addr s = .done none { s with coprocSent := { e with
      sent := e.sent ++ (List.range n).map fun k => Memory.readWord s.mem (addr + BitVec.ofNat 32 (4 * k)) }
      :: before } := by
  induction n generalizing addr s e with
  | zero =>
    cases s
    cases given
    simp only [List.range_zero, List.map_nil, List.append_nil]
    rfl
  | succ n ih =>
    have sends : s.sendWord (Memory.readWord s.mem addr) = { s with
        coprocSent := { e with sent := e.sent ++ [Memory.readWord s.mem addr] } :: before } := by
      unfold State.sendWord
      rw [given]
    have run := ih (addr + 4#32) (s := s.sendWord (Memory.readWord s.mem addr)) (by rw [sends]; exact { flat with })
      (by rw [sends])
    rw [ldcTransfers, flat.readWord]
    refine run.trans ?_
    rw [sends]
    simp only [List.range_succ_eq_map, List.map_cons, List.map_map, List.append_assoc, List.singleton_append,
      firstWord_add, Function.comp_def, nextWord_add]

/-- A first access that aborts is the last one (R466, R467, R469; log entry 30). -/
theorem ldcTransfers_aborted {s t : State} {addr : Word} {f : MemFault} (h : s.readWord addr .data = .abort f t)
    {n : Nat} (pos : 0 < n) : ldcTransfers n addr s = .done (some (f, addr)) t := by
  obtain ⟨k, rfl⟩ := Nat.exists_eq_succ_of_ne_zero pos.ne'
  rw [ldcTransfers, h]

theorem stcTransfers_aborted {s t : State} {supplied : Nat → Word} {addr : Word} {f : MemFault}
    (h : s.memWrite addr (.word (supplied 0)) false false = .abort f t) {n : Nat} (pos : 0 < n) :
    stcTransfers supplied n 0 addr s = .done (some (f, addr)) t := by
  obtain ⟨k, rfl⟩ := Nat.exists_eq_succ_of_ne_zero pos.ne'
  rw [stcTransfers, decide_eq_false (lt_irrefl 0), h]

/-! ### The words that a run of stores leaves -/

/-- `t` is `s` after `n` words were stored from `addr` up: it differs in memory, within those words, and where the cache
holds a line in the cache and the free values (R467, log entry 37). -/
structure WordsStored (word : Nat → Word) (addr : Word) (n : Nat) (s t : State) : Prop where
  within : StoresWithin s t fun b => ∀ k < n, outsideWord (addr + BitVec.ofNat 32 (4 * k)) b
  canonical : Memory.wf t.mem = true
  uncached : s.idc = Vector.replicate 256 none → t.idc = s.idc ∧ t.draws = s.draws
  stored : ∀ k < n, Memory.readWord t.mem (addr + BitVec.ofNat 32 (4 * k)) = word k

/-- The bytes of a bus word lie outside the words that are less than 2^30 words further on. -/
theorem outsideWord_further {addr : Word} {i k : Nat} (pos : 0 < i) (bound : i < 2 ^ 30) (byte : k < 4) :
    outsideWord (addr + BitVec.ofNat 32 (4 * i)) ((wordAddr addr).toNat + k) := by
  have lt := addr.isLt
  simp only [outsideWord, wordAddr_toNat, BitVec.toNat_add, BitVec.toNat_ofNat]
  omega

theorem WordsStored.nil {s : State} (canonical : Memory.wf s.mem = true) (word : Nat → Word) (addr : Word) :
    WordsStored word addr 0 s s :=
  ⟨⟨s.mem, s.idc, s.draws, rfl, fun _ _ => rfl⟩, canonical, fun _ => ⟨rfl, rfl⟩, nofun⟩

/-- The words after the first leave it alone, since they are apart from it. -/
theorem WordsStored.cons {word : Nat → Word} {addr : Word} {n : Nat} {s t : State} (canonical : Memory.wf s.mem = true)
    {c : Vector (Option IdcLine) 256} {d : Nat} (uncached : s.idcFind addr = none → c = s.idc ∧ d = s.draws)
    (bound : n < 2 ^ 30) (later : WordsStored (fun k => word (k + 1)) (addr + 4#32) n
      { s with mem := Memory.writeWord s.mem addr (word 0), idc := c, draws := d } t) :
    WordsStored word addr (n + 1) s t := by
  obtain ⟨⟨m, c', d', rfl, same⟩, canonical', uncached', stored⟩ := later
  simp only [nextWord_add] at same stored
  refine ⟨⟨m, c', d', rfl, fun b outside => ?_⟩, canonical', fun empty => ?_, Nat.forall_lt_succ_left.2 ⟨?_, stored⟩⟩
  · obtain ⟨first, others⟩ := Nat.forall_lt_succ_left.1 outside
    rw [firstWord_add] at first
    exact (same b others).trans (Memory.read_writeWord_other first)
  · obtain ⟨rfl, rfl⟩ := uncached (idcFind_of_empty empty addr)
    exact uncached' empty
  · have kept : Memory.readWord m addr = Memory.readWord (Memory.writeWord s.mem addr (word 0)) addr :=
      readWord_eq_of_read fun b byte => same _ fun k below =>
        outsideWord_further (Nat.succ_pos k) (by omega) byte
    rw [firstWord_add]
    exact kept.trans (Memory.readWord_writeWord addr (word 0) canonical)

/-- In the flat memory an STC stores its words in ascending order (R467). -/
theorem stcTransfers_flat (supplied : Nat → Word) (n k : Nat) (addr : Word) {s : State} (flat : Flat s)
    (canonical : Memory.wf s.mem = true) (bound : n < 2 ^ 30) :
    ∃ t, WordsStored (fun j => supplied (k + j)) addr n s t ∧ stcTransfers supplied n k addr s = .done none t := by
  induction n generalizing k addr s with
  | zero => exact ⟨s, WordsStored.nil canonical _ addr, rfl⟩
  | succ n ih =>
    obtain ⟨c, d, written, uncached⟩ := flat.memWrite_any addr (.word (supplied k)) false (decide (0 < k))
    obtain ⟨t, later, run⟩ := ih (k + 1) (addr + 4#32)
      (s := { s with mem := Memory.writeWord s.mem addr (supplied k), idc := c, draws := d }) { flat with }
      (Memory.wf_writeWord addr _ canonical) (Nat.lt_of_succ_lt bound)
    refine ⟨t, WordsStored.cons canonical uncached (Nat.lt_of_succ_lt bound) ?_, ?_⟩
    · simp only [Nat.add_right_comm k 1, Nat.add_assoc] at later
      exact later
    · rw [stcTransfers, written]
      exact run

/-! ### Complete and aborted transfers -/

theorem wordCount_pos (n : Nat) : 0 < max 1 n := lt_max_of_lt_left Nat.one_pos

/-- An LDC in the flat memory. -/
theorem exec_ldc_flat {s : State} {a : Cdt} {n : Nat} {data : List Word} {rest : List CoprocAnswer} (flat : Flat s)
    (tape : s.coprocTape = .accept n data :: rest) (passed : condPassed a.cond s.cpsr = true) (cp : a.cp ≠ 15#4)
    (base : a.rn = 15#4 → a.w = false) : exec (.ldc a) s = .next { s with
      coprocTape := rest
      coprocSent := ⟨encode (.ldc a), s.privileged,
        (List.range (max 1 n)).map fun k => Memory.readWord s.mem ((s.cdtAddr a).addr + BitVec.ofNat 32 (4 * k))⟩
        :: s.coprocSent
      regs := s.movedBase a.rn (s.cdtAddr a)
      pc := s.pc + 4#32 } := by
  have run := ldcTransfers_flat (max 1 n) (s.cdtAddr a).addr (s := s.givenToCoproc (.ldc a) rest) { flat with } rfl
  rw [exec_ldc_sent passed cp base tape (by exact { flat with }) run, State.endCdt, writeBack_eq]
  rfl

/-- The data abort at the end of an LDC or STC, with the base written back all the same (R469). -/
theorem endCdt_aborted (s : State) (rn : RegNum) (t : TransferAddr) (f : MemFault) (va : Word) :
    s.endCdt rn t (some (f, va)) = .next (State.dataAbort { s with regs := s.movedBase rn t } f va) := by
  rw [State.endCdt, writeBack_eq]

/-- Settles O45: the run of transfers in the flat memory, or its first access, and then the end of the instruction. -/
theorem coprocessorTransfersComplete : Obligations.CoprocessorTransfersComplete := by
  refine ⟨fun s a n data rest => exec_ldc_flat, fun s a n data rest flat canonical tape passed cp base bound => ?_,
    fun s a n data rest flat tape passed cp base aborts => ?_⟩
  · obtain ⟨t, ⟨⟨m, c, d, rfl, same⟩, -, uncached, stored⟩, run⟩ := stcTransfers_flat (s.suppliedWord data) (max 1 n) 0
      (s.cdtAddr a).addr (s := s.givenToCoproc (.stc a) rest) { flat with } canonical (by omega)
    refine ⟨m, c, d, ?_, uncached, same, fun k v below listed => ?_⟩
    · rw [exec_stc_stored passed cp base tape run, State.endCdt, writeBack_eq]
      rfl
    · rw [stored k below, Nat.zero_add]
      exact suppliedWord_of_listed s listed
  · have given (i : Instr) : FlatButAborts (s.givenToCoproc i rest) := flat.butAborts.of_eq rfl rfl rfl
    constructor
    · have stops := ldcTransfers_aborted (((given (.ldc a)).readWord _ .data).trans (if_pos aborts)) (wordCount_pos n)
      exact ⟨_, (exec_ldc_aborted passed cp base tape stops).trans (endCdt_aborted _ _ _ _ _), dataAbort_taken _ _ _⟩
    · obtain ⟨t, write, m, c, d, rfl, -⟩ := (given (.stc a)).memWrite (s.cdtAddr a).addr (s.suppliedWord data 0) false
      have stops := stcTransfers_aborted (write.trans (if_pos aborts)) (wordCount_pos n)
      refine ⟨_, (exec_stc_stored passed cp base tape stops).trans (endCdt_aborted _ _ _ _ _), State.dataAbort_far _ _ _,
        State.dataAbort_pc _ _ _, State.dataAbort_cpsr _ _ _, State.dataAbort_spsrAbt _ _ _, State.dataAbort_regs _ _ _⟩

end Sys2Proof.Machine
end
